-- ==== Sys2Proof/Word.lean ====
section
/-! DEFINITION. The word types of the engine (00_scope.md R7): bytes, 32-bit register values, byte strings. -/

namespace Sys2Proof

/-- One byte of an operand register (R11, R43). -/
abbrev Byte := BitVec 8

/-- The value of a 32-bit control register, and a command word (R15, R61). -/
abbrev Word := BitVec 32

/-- A byte string of R7: first byte first, `b[i]` is byte `i` counting from 0. -/
abbrev Bytes := List Byte

end Sys2Proof
end

