-- ==== Sys2Proof/Config.lean ====
section
/-! DEFINITION. What an implementation fixes (the parameters of 00_scope.md R5 and the cipher cores of
48_providers.md R173) and the free values the spec leaves open (46_confounder.md R151, 70_reset_and_hazards.md R266). -/

namespace Sys2Proof

/-- Which functions the five block-cipher cores compute. The spec takes them as parameters of the model (R173) and
names an intended instantiation (R176, R177, R181). -/
inductive Cores where
  /-- AES, Camellia and triple-DES: the instantiation R176, R177 and R181 name. -/
  | intended
  /-- Any five functions that meet the contract of R173: the opaque permutations below. -/
  | external
deriving DecidableEq, Repr

/-- The parameters of one engine (R5) and its cipher cores (R173). No command and no access changes them. -/
structure Config where
  /-- `KEY_CAP`, bytes. -/
  keyCap : Nat
  /-- `AUX_CAP`, bytes. -/
  auxCap : Nat
  /-- `MSG_CAP`, bytes. -/
  msgCap : Nat
  /-- `OUT_CAP`, bytes. -/
  outCap : Nat
  /-- `BASE`, the bus address of the window. -/
  base : Nat
  /-- The instantiation of the block-cipher cores. -/
  cores : Cores
deriving DecidableEq, Repr

/-- The default column of R5, with the intended cipher cores. DESIGN CHOICE (log 3, unsafe): the machine after reset
is an engine with these parameters. -/
def Config.standard : Config :=
  { keyCap := 256, auxCap := 256, msgCap := 4096, outCap := 256, base := 0, cores := .intended }

/-- Byte `i` of draw number `n` of an entropy source whose answers are those named `source` (R151, R178): a free value,
about which nothing is known (log 6). -/
opaque Config.draw (source n i : Nat) : Byte

/-- What a read other than of `STATUS` returns while `BUSY` = 1: R266 calls it unspecified; free (log 7). -/
opaque Config.busyRead (n : Nat) : Word

/-- `Enc[AES128]` of an engine with external cores: for every key some permutation of the blocks (R173; log 4). -/
opaque Config.extAes128 : BitVec 128 → Equiv.Perm (BitVec 128)

/-- `Enc[AES256]` of an engine with external cores (R173; log 4). -/
opaque Config.extAes256 : BitVec 256 → Equiv.Perm (BitVec 128)

/-- `Enc[CAM128]` of an engine with external cores (R173; log 4). -/
opaque Config.extCam128 : BitVec 128 → Equiv.Perm (BitVec 128)

/-- `Enc[CAM256]` of an engine with external cores (R173; log 4). -/
opaque Config.extCam256 : BitVec 256 → Equiv.Perm (BitVec 128)

/-- `Enc[DES3]` of an engine with external cores (R173; log 4). -/
opaque Config.extDes3 : BitVec 192 → Equiv.Perm (BitVec 64)

end Sys2Proof
end

