-- ==== Sys2Proof/Syntax.lean ====
section
/-! DEFINITION. The engine's names: error kinds (60_exceptions.md R230), algorithms (30_encoding.md R63, R64), control
registers (10_state.md R15), operations (R62), and the commands, one constructor for each row of
spec/opcode_table.json. -/

namespace Sys2Proof

/-- The kinds of error a command can end with (R230). `WeakKey` is none of them (R231). -/
inductive ErrorKind where
  /-- The `ALG` field names no provider registered for this `OP` (R66). -/
  | unsupportedAlgorithm
  /-- A length above its capacity or a parameter outside its legal range (R234, R236). -/
  | invalidParameter
  /-- The comparison of `MACCMP` failed (R162). -/
  | integrityFailure
  /-- The word is no command (R67). -/
  | illegalCommand
deriving DecidableEq, Repr

/-- The registered hashes (R63, R170). -/
inductive HashAlg where
  | sha1
  | md5
deriving DecidableEq, Repr

/-- The registered block ciphers (R64, R172). -/
inductive Cipher where
  | des3
  | aes128
  | aes256
  | cam128
  | cam256
deriving DecidableEq, Repr

/-- The control registers of R15. -/
inductive Reg where
  | id
  | cmd
  | status
  | errlog
  | keylen
  | auxlen
  | msglen
  | outlen
  | reqlen
  | nbits
  | iter
deriving DecidableEq, Repr

/-- The operations of R62. -/
inductive Op where
  | nop
  | zeroize
  | out2key
  | out2aux
  | out2msg
  | trunc
  | nfold
  | hmac
  | cmac
  | dr
  | dk
  | r2k
  | pbkdf2
  | conf
  | maccmp
deriving DecidableEq, Repr

/-- The commands: one constructor for each row of the opcode table. `keep` is bit 16, `KEEP` (R61, R65); it is legal
on every command. -/
inductive Instr where
  /-- `NOP`, word `0x00000000` with `KEEP` = 0 (R80). -/
  | nop (keep : Bool)
  /-- `ZEROIZE`, word `0x00000001` with `KEEP` = 0 (R81). -/
  | zeroize (keep : Bool)
  /-- `OUT2KEY`, word `0x00000002` with `KEEP` = 0 (R82). -/
  | out2key (keep : Bool)
  /-- `OUT2AUX`, word `0x00000003` with `KEEP` = 0 (R83). -/
  | out2aux (keep : Bool)
  /-- `OUT2MSG`, word `0x00000004` with `KEEP` = 0 (R84). -/
  | out2msg (keep : Bool)
  /-- `TRUNC`, word `0x00000005` with `KEEP` = 0 (R160). -/
  | trunc (keep : Bool)
  /-- `NFOLD`, word `0x00000010` with `KEEP` = 0 (R93). -/
  | nfold (keep : Bool)
  /-- `HMAC.SHA1`, word `0x00000020` with `KEEP` = 0 (R102). -/
  | hmacSha1 (keep : Bool)
  /-- `HMAC.MD5`, word `0x00000120` with `KEEP` = 0 (R102). -/
  | hmacMd5 (keep : Bool)
  /-- `CMAC.AES128`, word `0x00001130` with `KEEP` = 0 (R113). -/
  | cmacAes128 (keep : Bool)
  /-- `CMAC.AES256`, word `0x00001230` with `KEEP` = 0 (R113). -/
  | cmacAes256 (keep : Bool)
  /-- `CMAC.CAM128`, word `0x00001930` with `KEEP` = 0 (R113). -/
  | cmacCam128 (keep : Bool)
  /-- `CMAC.CAM256`, word `0x00001A30` with `KEEP` = 0 (R113). -/
  | cmacCam256 (keep : Bool)
  /-- `DR.DES3`, word `0x00001040` with `KEEP` = 0 (R124). -/
  | drDes3 (keep : Bool)
  /-- `DR.AES128`, word `0x00001140` with `KEEP` = 0 (R124). -/
  | drAes128 (keep : Bool)
  /-- `DR.AES256`, word `0x00001240` with `KEEP` = 0 (R124). -/
  | drAes256 (keep : Bool)
  /-- `DR.CAM128`, word `0x00001940` with `KEEP` = 0 (R124). -/
  | drCam128 (keep : Bool)
  /-- `DR.CAM256`, word `0x00001A40` with `KEEP` = 0 (R124). -/
  | drCam256 (keep : Bool)
  /-- `DK.DES3`, word `0x00001041` with `KEEP` = 0 (R125). -/
  | dkDes3 (keep : Bool)
  /-- `DK.AES128`, word `0x00001141` with `KEEP` = 0 (R125). -/
  | dkAes128 (keep : Bool)
  /-- `DK.AES256`, word `0x00001241` with `KEEP` = 0 (R125). -/
  | dkAes256 (keep : Bool)
  /-- `DK.CAM128`, word `0x00001941` with `KEEP` = 0 (R125). -/
  | dkCam128 (keep : Bool)
  /-- `DK.CAM256`, word `0x00001A41` with `KEEP` = 0 (R125). -/
  | dkCam256 (keep : Bool)
  /-- `R2K.DES3`, word `0x00001042` with `KEEP` = 0 (R126). -/
  | r2kDes3 (keep : Bool)
  /-- `R2K.AES128`, word `0x00001142` with `KEEP` = 0 (R126). -/
  | r2kAes128 (keep : Bool)
  /-- `R2K.AES256`, word `0x00001242` with `KEEP` = 0 (R126). -/
  | r2kAes256 (keep : Bool)
  /-- `R2K.CAM128`, word `0x00001942` with `KEEP` = 0 (R126). -/
  | r2kCam128 (keep : Bool)
  /-- `R2K.CAM256`, word `0x00001A42` with `KEEP` = 0 (R126). -/
  | r2kCam256 (keep : Bool)
  /-- `PBKDF2.SHA1`, word `0x00000050` with `KEEP` = 0 (R142). -/
  | pbkdf2Sha1 (keep : Bool)
  /-- `CONF`, word `0x00000060` with `KEEP` = 0 (R152). -/
  | conf (keep : Bool)
  /-- `MACCMP`, word `0x00000070` with `KEEP` = 0 (R162). -/
  | maccmp (keep : Bool)
deriving DecidableEq, Repr

end Sys2Proof
end

