-- ==== Sys2Proof/WellFormed.lean ====
section
/-! DEFINITION. Well-formedness of the syntax: the commands (30_encoding.md R61) and the parameters of an engine
(00_scope.md R5). -/

namespace Sys2Proof

/-- Every term of `Instr` is a command: its only operand field is `KEEP`, and both values of `KEEP` are legal on every
command (R61, R65, R67), so no check is left to make. -/
def Instr.wellFormed (_ : Instr) : Bool := true

/-- The constraints of R5 on the parameters. -/
def Config.wellFormed (c : Config) : Bool :=
  decide (64 ≤ c.keyCap) && decide (c.keyCap ≤ 4096) && decide (64 ≤ c.auxCap) && decide (c.auxCap ≤ 4096) &&
  decide (64 ≤ c.msgCap) && decide (c.msgCap ≤ 65536) && decide (64 ≤ c.outCap) && decide (c.outCap ≤ 4096) &&
  decide (c.outCap ≤ c.keyCap) && decide (c.outCap ≤ c.auxCap) && decide (c.outCap ≤ c.msgCap) &&
  decide (c.base % 0x20000 = 0)

end Sys2Proof
end

