-- ==== Sys2Proof/Decode.lean ====
section
/-! DEFINITION. Decoding a command word (30_encoding.md R61 to R67) and encoding a command (R70). -/

namespace Sys2Proof

/-- The field `OP`, bits 7:0 (R61). -/
def opField (w : Word) : Byte := w.extractLsb' 0 8

/-- The field `ALG`, bits 15:8 (R61). -/
def algField (w : Word) : Byte := w.extractLsb' 8 8

/-- The field `KEEP`, bit 16 (R61, R65). -/
def keepField (w : Word) : Bool := w.getLsbD 16

/-- The reserved field, bits 31:17 (R61). -/
def reservedField (w : Word) : BitVec 15 := w.extractLsb' 17 15

/-- The operation codes of R62; `none` for every other value (R67). -/
def Op.ofCode (code : Byte) : Option Op :=
  if code = 0x00#8 then some .nop
  else if code = 0x01#8 then some .zeroize
  else if code = 0x02#8 then some .out2key
  else if code = 0x03#8 then some .out2aux
  else if code = 0x04#8 then some .out2msg
  else if code = 0x05#8 then some .trunc
  else if code = 0x10#8 then some .nfold
  else if code = 0x20#8 then some .hmac
  else if code = 0x30#8 then some .cmac
  else if code = 0x40#8 then some .dr
  else if code = 0x41#8 then some .dk
  else if code = 0x42#8 then some .r2k
  else if code = 0x50#8 then some .pbkdf2
  else if code = 0x60#8 then some .conf
  else if code = 0x70#8 then some .maccmp
  else none

/-- The key-using commands (R60): the ones that read `K` as key material. -/
def Op.keyUsing : Op → Bool
  | .hmac | .cmac | .dr | .dk | .r2k | .pbkdf2 => true
  | .nop | .zeroize | .out2key | .out2aux | .out2msg | .trunc | .nfold | .conf | .maccmp => false

/-- The hash numbers of R63. -/
def HashAlg.ofNumber (alg : Byte) : Option HashAlg :=
  if alg = 0#8 then some .sha1
  else if alg = 1#8 then some .md5
  else none

/-- The registered cipher numbers of R64. -/
def Cipher.ofNumber (alg : Byte) : Option Cipher :=
  if alg = 16#8 then some .des3
  else if alg = 17#8 then some .aes128
  else if alg = 18#8 then some .aes256
  else if alg = 25#8 then some .cam128
  else if alg = 26#8 then some .cam256
  else none

/-- An operation that takes no algorithm: a nonzero `ALG` is illegal (R66). -/
def withoutAlg (alg : Byte) (i : Instr) : Except ErrorKind Instr :=
  if alg = 0#8 then .ok i else .error .illegalCommand

/-- `HMAC` with a hash (R66). -/
def decodeHmac (alg : Byte) (keep : Bool) : Except ErrorKind Instr :=
  match HashAlg.ofNumber alg with
  | some .sha1 => .ok (.hmacSha1 keep)
  | some .md5 => .ok (.hmacMd5 keep)
  | none => .error .unsupportedAlgorithm

/-- `CMAC` with a cipher that has a 16-byte block (R64, R66). -/
def decodeCmac (alg : Byte) (keep : Bool) : Except ErrorKind Instr :=
  match Cipher.ofNumber alg with
  | some .des3 => .error .unsupportedAlgorithm
  | some .aes128 => .ok (.cmacAes128 keep)
  | some .aes256 => .ok (.cmacAes256 keep)
  | some .cam128 => .ok (.cmacCam128 keep)
  | some .cam256 => .ok (.cmacCam256 keep)
  | none => .error .unsupportedAlgorithm

/-- `DR` with a cipher (R66). -/
def decodeDr (alg : Byte) (keep : Bool) : Except ErrorKind Instr :=
  match Cipher.ofNumber alg with
  | some .des3 => .ok (.drDes3 keep)
  | some .aes128 => .ok (.drAes128 keep)
  | some .aes256 => .ok (.drAes256 keep)
  | some .cam128 => .ok (.drCam128 keep)
  | some .cam256 => .ok (.drCam256 keep)
  | none => .error .unsupportedAlgorithm

/-- `DK` with a cipher (R66). -/
def decodeDk (alg : Byte) (keep : Bool) : Except ErrorKind Instr :=
  match Cipher.ofNumber alg with
  | some .des3 => .ok (.dkDes3 keep)
  | some .aes128 => .ok (.dkAes128 keep)
  | some .aes256 => .ok (.dkAes256 keep)
  | some .cam128 => .ok (.dkCam128 keep)
  | some .cam256 => .ok (.dkCam256 keep)
  | none => .error .unsupportedAlgorithm

/-- `R2K` with a cipher (R66). -/
def decodeR2k (alg : Byte) (keep : Bool) : Except ErrorKind Instr :=
  match Cipher.ofNumber alg with
  | some .des3 => .ok (.r2kDes3 keep)
  | some .aes128 => .ok (.r2kAes128 keep)
  | some .aes256 => .ok (.r2kAes256 keep)
  | some .cam128 => .ok (.r2kCam128 keep)
  | some .cam256 => .ok (.r2kCam256 keep)
  | none => .error .unsupportedAlgorithm

/-- `PBKDF2`: SHA-1 only (R63, R66). -/
def decodePbkdf2 (alg : Byte) (keep : Bool) : Except ErrorKind Instr :=
  match HashAlg.ofNumber alg with
  | some .sha1 => .ok (.pbkdf2Sha1 keep)
  | some .md5 => .error .unsupportedAlgorithm
  | none => .error .unsupportedAlgorithm

/-- The command of an operation, its `ALG` and its `KEEP`, or the error R66 raises. -/
def decodeOp (op : Op) (alg : Byte) (keep : Bool) : Except ErrorKind Instr :=
  match op with
  | .nop => withoutAlg alg (.nop keep)
  | .zeroize => withoutAlg alg (.zeroize keep)
  | .out2key => withoutAlg alg (.out2key keep)
  | .out2aux => withoutAlg alg (.out2aux keep)
  | .out2msg => withoutAlg alg (.out2msg keep)
  | .trunc => withoutAlg alg (.trunc keep)
  | .nfold => withoutAlg alg (.nfold keep)
  | .hmac => decodeHmac alg keep
  | .cmac => decodeCmac alg keep
  | .dr => decodeDr alg keep
  | .dk => decodeDk alg keep
  | .r2k => decodeR2k alg keep
  | .pbkdf2 => decodePbkdf2 alg keep
  | .conf => withoutAlg alg (.conf keep)
  | .maccmp => withoutAlg alg (.maccmp keep)

/-- Decode of a command word, total on all 2^32 values (R66): reserved bits first, then the operation, then its
algorithm (the priority of R232). -/
def decode (w : Word) : Except ErrorKind Instr :=
  if reservedField w ≠ 0#15 then .error .illegalCommand
  else
    match Op.ofCode (opField w) with
    | none => .error .illegalCommand
    | some op => decodeOp op (algField w) (keepField w)

/-- Whether a word that decoding rejects with `e` erases `K` in the error epilogue (R233): never for
`IllegalCommand`; otherwise when its operation is key-using and its `KEEP` is 0. -/
def rejectionErasesKey (e : ErrorKind) (w : Word) : Bool :=
  decide (e ≠ .illegalCommand) && ((Op.ofCode (opField w)).elim false Op.keyUsing) && !keepField w

/-! ### The encoder -/

/-- The code of an operation (R62). -/
def Op.code : Op → Byte
  | .nop => 0x00#8
  | .zeroize => 0x01#8
  | .out2key => 0x02#8
  | .out2aux => 0x03#8
  | .out2msg => 0x04#8
  | .trunc => 0x05#8
  | .nfold => 0x10#8
  | .hmac => 0x20#8
  | .cmac => 0x30#8
  | .dr => 0x40#8
  | .dk => 0x41#8
  | .r2k => 0x42#8
  | .pbkdf2 => 0x50#8
  | .conf => 0x60#8
  | .maccmp => 0x70#8

/-- The number of a hash (R63). -/
def HashAlg.number : HashAlg → Byte
  | .sha1 => 0#8
  | .md5 => 1#8

/-- The number of a cipher (R64). -/
def Cipher.number : Cipher → Byte
  | .des3 => 16#8
  | .aes128 => 17#8
  | .aes256 => 18#8
  | .cam128 => 25#8
  | .cam256 => 26#8

/-- The word `(KEEP << 16) | (ALG << 8) | OP` of R70. -/
def commandWord (op : Op) (alg : Byte) (keep : Bool) : Word :=
  ((if keep then 1#32 else 0#32) <<< 16) ||| (alg.setWidth 32 <<< 8) ||| op.code.setWidth 32

/-- The word of a command (R61, R70). -/
def encode : Instr → Word
  | .nop keep => commandWord .nop 0#8 keep
  | .zeroize keep => commandWord .zeroize 0#8 keep
  | .out2key keep => commandWord .out2key 0#8 keep
  | .out2aux keep => commandWord .out2aux 0#8 keep
  | .out2msg keep => commandWord .out2msg 0#8 keep
  | .trunc keep => commandWord .trunc 0#8 keep
  | .nfold keep => commandWord .nfold 0#8 keep
  | .hmacSha1 keep => commandWord .hmac HashAlg.sha1.number keep
  | .hmacMd5 keep => commandWord .hmac HashAlg.md5.number keep
  | .cmacAes128 keep => commandWord .cmac Cipher.aes128.number keep
  | .cmacAes256 keep => commandWord .cmac Cipher.aes256.number keep
  | .cmacCam128 keep => commandWord .cmac Cipher.cam128.number keep
  | .cmacCam256 keep => commandWord .cmac Cipher.cam256.number keep
  | .drDes3 keep => commandWord .dr Cipher.des3.number keep
  | .drAes128 keep => commandWord .dr Cipher.aes128.number keep
  | .drAes256 keep => commandWord .dr Cipher.aes256.number keep
  | .drCam128 keep => commandWord .dr Cipher.cam128.number keep
  | .drCam256 keep => commandWord .dr Cipher.cam256.number keep
  | .dkDes3 keep => commandWord .dk Cipher.des3.number keep
  | .dkAes128 keep => commandWord .dk Cipher.aes128.number keep
  | .dkAes256 keep => commandWord .dk Cipher.aes256.number keep
  | .dkCam128 keep => commandWord .dk Cipher.cam128.number keep
  | .dkCam256 keep => commandWord .dk Cipher.cam256.number keep
  | .r2kDes3 keep => commandWord .r2k Cipher.des3.number keep
  | .r2kAes128 keep => commandWord .r2k Cipher.aes128.number keep
  | .r2kAes256 keep => commandWord .r2k Cipher.aes256.number keep
  | .r2kCam128 keep => commandWord .r2k Cipher.cam128.number keep
  | .r2kCam256 keep => commandWord .r2k Cipher.cam256.number keep
  | .pbkdf2Sha1 keep => commandWord .pbkdf2 HashAlg.sha1.number keep
  | .conf keep => commandWord .conf 0#8 keep
  | .maccmp keep => commandWord .maccmp 0#8 keep

/-- The instruction the decoder reads from the bits `w` of an instruction of `nbits` bits, every higher bit 0. A command
is one 32-bit value; no byte order of it exists (R42). -/
def decodeTableWord (nbits w : Nat) : Option Instr :=
  match decode (BitVec.ofNat 32 (w % 2 ^ nbits)) with
  | .ok i => some i
  | .error _ => none

end Sys2Proof
end

