-- ==== Sys2Proof/Machine/State.lean ====
section
/-! DEFINITION. The state of the engine (10_state.md R10 to R23), the host's actions (00_scope.md R8, 70_reset_and_hazards.md
R260), the reasons a step can stop, and the state after reset (R23, R261). -/

namespace Sys2Proof.Machine

/-- The bytes of one operand register: (index, byte) pairs in one canonical form (`Memory.wf`). An index that is not
listed reads `0x00`, the value of every byte after reset (R23). -/
abbrev Memory := List Host.Cell

/-- The canonical form: indices strictly rising, and no entry equal to what an unlisted index reads as. -/
abbrev Memory.wf (m : Memory) : Prop :=
  m.Pairwise (fun x y => x.1 < y.1) ∧ ∀ c ∈ m, c.2 ≠ 0#8

/-- An operand register of R11: its bytes and its 32-bit length register. -/
structure Operand where
  /-- The array of bytes (its capacity is a parameter of R5). -/
  bytes : Memory
  /-- The length register: how many leading bytes are valid (R11); any 32-bit value (R13). -/
  len : Word
deriving DecidableEq, Repr

/-- What the host can do to the engine: `MemRead(addr, n)`, `MemWrite(addr, n, v)` (R8), and drive the reset input
(R260). The value of a write of n bytes is the low n bytes of `value`. With a write comes the step's free input of R151: which
answers the entropy source gives to the command, if the write starts one. Nothing fixes it, reset included (R261; log 6). -/
inductive HostAction where
  /-- `MemRead(addr, width)`. -/
  | read (addr width : Nat)
  /-- `MemWrite(addr, width, value)`, while the entropy source answers as `source` names. -/
  | write (addr width : Nat) (value : Word) (source : Nat)
  /-- The reset input, or power-on (R260). -/
  | reset
deriving DecidableEq, Repr

/-- The reasons the model stops with a fault. -/
inductive Fault where
  /-- Raised by a host access at an address outside the engine's window: such an access is not addressed to the
  engine (R40). Safe: the engine's state would not change (log 9). -/
  | outsideWindow (addr : Nat)
deriving DecidableEq, Repr

/-- The reasons the model refuses a step. -/
inductive Refusal where
  /-- Raised by an arm of `exec` that has no meaning yet. Safe. -/
  | notModelled (mnemonic : String)
  /-- Raised by a host access of illegal width or alignment at an offset of the window: R44 and R242 tell a model to
  refuse it. Safe: on the hardware no state changes and the host gets a bus error (log 10). -/
  | illegalAccess (offset width : Nat)
deriving DecidableEq, Repr

/-- The state of the engine. `key`, `aux`, `msg`, `out` are the operand registers `K`, `A`, `M`, `O` (R11). `ID` and
`CMD` store nothing (R15; log 13). -/
structure State where
  /-- The parameters of this engine (R5, R173); no step changes them (log 3). -/
  cfg : Config
  /-- Operand register `K` with `KEYLEN`. -/
  key : Operand
  /-- Operand register `A` with `AUXLEN`. -/
  aux : Operand
  /-- Operand register `M` with `MSGLEN`. -/
  msg : Operand
  /-- Operand register `O` with `OUTLEN`. -/
  out : Operand
  /-- `REQLEN` (R15, R18). -/
  reqlen : Word
  /-- `NBITS` (R15, R18). -/
  nbits : Word
  /-- `ITER` (R15, R18). -/
  iter : Word
  /-- `STATUS` (R16). -/
  status : Word
  /-- `ERRLOG` (R17). -/
  errlog : Word
  /-- The model's own: host actions that have not reached the engine yet, oldest first (R51; log 1). -/
  bus : List HostAction
  /-- The model's own: the values that reads have returned to the host, oldest first (log 2). -/
  replies : List Word
  /-- The model's own: the answers of the entropy source to the last command taken, as the write that started it named
  them: an input, which every command brings along (R151; log 6). -/
  source : Nat
  /-- The model's own: how many free values have been taken (R151, R266; log 6, log 7). -/
  fresh : Nat
deriving DecidableEq, Repr

/-- An operand register with every byte `0x00` and length 0 (R23). -/
def Operand.empty : Operand := { bytes := [], len := 0#32 }

/-- The machine of parameters `c` right after reset (R23, R261), with no host action pending. -/
def State.resetWith (c : Config) : State :=
  { cfg := c, key := Operand.empty, aux := Operand.empty, msg := Operand.empty, out := Operand.empty,
    reqlen := 0#32, nbits := 0#32, iter := 0#32, status := 0#32, errlog := 0#32,
    bus := [], replies := [], source := 0, fresh := 0 }

/-- The machine right after reset (R23, R261), with the default parameters of R5 (log 3). -/
def State.reset : State := State.resetWith Config.standard

end Sys2Proof.Machine
end

