-- ==== Sys2Proof/Machine/Bytes.lean ====
section
/-! DEFINITION. Byte strings and integers (00_scope.md R7, 20_memory.md R49). -/

namespace Sys2Proof.Machine

/-- `int(b)`: the unsigned integer that the string spells big-endian (R7). -/
def bytesToNat (b : Bytes) : Nat := b.foldl (fun acc x => acc * 256 + x.toNat) 0

/-- `bytes_n(v)`: the `n`-byte big-endian string of `v` (R7). -/
def natToBytes : Nat → Nat → Bytes
  | 0, _ => []
  | n + 1, v => BitVec.ofNat 8 (v >>> (8 * n)) :: natToBytes n v

/-- The `n`-byte little-endian string of `v` (R7). -/
def natToBytesLE (n v : Nat) : Bytes := (natToBytes n v).reverse

/-- The unsigned integer that the string spells little-endian (R7). -/
def bytesToNatLE (b : Bytes) : Nat := bytesToNat b.reverse

/-- `be32(v)` (R7). -/
def be32 (v : Nat) : Bytes := natToBytes 4 v

/-- `le32(v)` (R7). -/
def le32 (v : Nat) : Bytes := natToBytesLE 4 v

/-- `be64(v)` (R7). -/
def be64 (v : Nat) : Bytes := natToBytes 8 v

/-- `le64(v)` (R7). -/
def le64 (v : Nat) : Bytes := natToBytesLE 8 v

/-- `zeros(n)` (R7). -/
def zeros (n : Nat) : Bytes := List.replicate n 0#8

/-- `xor(a, b)`: bytewise exclusive-or of two strings of equal length (R7). -/
def xorBytes (a b : Bytes) : Bytes := List.zipWith (fun x y => x ^^^ y) a b

/-- `ceil(a / b)` (R7). -/
def ceilDiv (a b : Nat) : Nat := (a + (b - 1)) / b

/-- The whole `n`-byte pieces of a string, in order: `b[0:n]`, `b[n:2n]`, and so on. -/
def pieces (n : Nat) (b : Bytes) : List Bytes :=
  (List.range (b.length / n)).map fun i => (b.drop (n * i)).take n

end Sys2Proof.Machine
end

