-- ==== Sys2Proof/Machine/Flags.lean ====
section
/-! DEFINITION. The fields of `STATUS` (10_state.md R16, R19) and `ERRLOG` (R17), every value a command gives them
(30_encoding.md R60, 60_exceptions.md R230, R233), and what a host's write does to `ERRLOG`. -/

namespace Sys2Proof.Machine

/-- `STATUS.BUSY`, bit 0 (R16). -/
def State.busy (s : State) : Bool := s.status.getLsbD 0

/-- `STATUS.DONE`, bit 1 (R16). -/
def State.done (s : State) : Bool := s.status.getLsbD 1

/-- `STATUS.ERR`, bit 2 (R16). -/
def State.err (s : State) : Bool := s.status.getLsbD 2

/-- `STATUS.MATCH`, bit 3 (R16). -/
def State.matched (s : State) : Bool := s.status.getLsbD 3

/-- `STATUS.ECODE`, bits 11:8 (R16). -/
def State.ecode (s : State) : BitVec 4 := s.status.extractLsb' 8 4

/-- The `STATUS` word with the given fields and every reserved bit 0 (R16). -/
def statusWord (busy done err matched : Bool) (ecode : BitVec 4) : Word :=
  (if busy then 0x1#32 else 0#32) ||| (if done then 0x2#32 else 0#32) ||| (if err then 0x4#32 else 0#32) |||
  (if matched then 0x8#32 else 0#32) ||| (ecode.setWidth 32 <<< 8)

/-- `STATUS` while a command is in progress: `BUSY` = 1, every other field 0 (R60 step 1, R266). -/
def statusBusy : Word := statusWord true false false false 0#4

/-- `STATUS` after a command that ended without error (R60 step 7). -/
def statusDone (matched : Bool) : Word := statusWord false true false matched 0#4

/-- The error codes of R230. -/
def errorCode : ErrorKind → BitVec 4
  | .unsupportedAlgorithm => 1#4
  | .invalidParameter => 2#4
  | .integrityFailure => 3#4
  | .illegalCommand => 4#4

/-- `STATUS` after a command that ended with error `e`: `DONE` = 1, `ERR` = 1, `ECODE` its code (R233). -/
def statusError (e : ErrorKind) : Word := statusWord false true true false (errorCode e)

/-- The bits of `STATUS` that are not reserved (R16). -/
def statusMask : Word := 0x00000F0F#32

/-- The bits of `ERRLOG` that are not reserved: 1 to 4 (R17). -/
def errlogMask : Word := 0x0000001E#32

/-- `ERRLOG` after an error `e`: bit `ECODE` set, the others as they were (R17, R233). -/
def logError (e : ErrorKind) (errlog : Word) : Word := errlog ||| (1#32 <<< (errorCode e).toNat)

/-- `ERRLOG` after the host writes `v` to it: a written 1 clears the bit, a written 0 leaves it (R15, R17, R48). -/
def clearLogged (errlog v : Word) : Word := errlog &&& ~~~v

end Sys2Proof.Machine
end

