-- ==== Sys2Proof/Machine/Ops.lean ====
section
/-! DEFINITION. The shared operations: the bytes of an operand register, storing a string into an operand register
(00_scope.md R8), erasing the key (30_encoding.md R65), publishing a result (R60 steps 5 to 7), and the error epilogue,
which is how the engine takes an exception (60_exceptions.md R233). There is no return from an exception (R239). -/

namespace Sys2Proof.Machine

/-- Byte `i` of an operand register; `0x00` where nothing is listed (R23). -/
def Memory.read (m : Memory) (i : Nat) : Byte :=
  match m with
  | [] => 0#8
  | c :: rest => if c.1 = i then c.2 else Memory.read rest i

/-- The register with byte `i` set to `b` (R43). Writing `0x00` lists nothing. -/
def Memory.write (m : Memory) (i : Nat) (b : Byte) : Memory :=
  match m with
  | [] => if b = 0#8 then [] else [(i, b)]
  | c :: rest =>
    if c.1 < i then c :: Memory.write rest i b
    else if c.1 = i then (if b = 0#8 then rest else (i, b) :: rest)
    else if b = 0#8 then c :: rest
    else (i, b) :: c :: rest

/-- The bytes of `v` placed from index `i` on, every other byte `0x00`. -/
def Memory.place (i : Nat) (v : Bytes) : Memory :=
  match v with
  | [] => []
  | b :: rest => if b = 0#8 then Memory.place (i + 1) rest else (i, b) :: Memory.place (i + 1) rest

/-- The leading `n` bytes, `x[0 : n]` (R7). -/
def Memory.slice (m : Memory) (n : Nat) : Bytes := (List.range n).map fun i => Memory.read m i

/-- The operand register after `x <- v` (R8): bytes `0..len(v)-1` become `v`, every other byte becomes `0x00`, the
length register becomes `len(v)`. -/
def Operand.ofBytes (v : Bytes) : Operand := { bytes := Memory.place 0 v, len := BitVec.ofNat 32 v.length }

/-- Reading `x` in a rule: its valid bytes `x[0 : LEN]` (R8). -/
def Operand.valid (x : Operand) : Bytes := Memory.slice x.bytes x.len.toNat

/-- `K` at the end of a key-using command: erased unless `KEEP` = 1 (R60 step 6, R65). -/
def keyAfter (keep : Bool) (k : Operand) : Operand := if keep then k else Operand.empty

/-- Steps 5 and 7 of the command cycle for a command that is not key-using: `O <- result`, `DONE` = 1, `MATCH` = 0
(R60). -/
def publish (result : Bytes) (s : State) : State :=
  { s with out := Operand.ofBytes result, status := statusDone false }

/-- Steps 5 to 7 of the command cycle for a key-using command (R60). -/
def publishKeyed (keep : Bool) (result : Bytes) (s : State) : State :=
  { s with out := Operand.ofBytes result, key := keyAfter keep s.key, status := statusDone false }

/-- The error epilogue (R233): `O` emptied, `K` erased if `eraseKey`, the error logged, `STATUS` rewritten; nothing
else changes. -/
def raiseError (e : ErrorKind) (eraseKey : Bool) (s : State) : State :=
  { s with
    out := Operand.empty
    key := keyAfter (!eraseKey) s.key
    errlog := logError e s.errlog
    status := statusError e }

/-- What a step answers: the engine's next state, or a stop of the model. -/
abbrev Result := Host.Outcome State Fault Refusal

end Sys2Proof.Machine
end

