-- ==== Sys2Proof/Machine/Operands.lean ====
section
/-! DEFINITION. The operand forms of the commands: the operand registers against their capacities (10_state.md R13,
60_exceptions.md R236), and every parameter test of R234. A command has no other operand fields (30_encoding.md R61). -/

namespace Sys2Proof.Machine

/-- `KEYLEN` > `KEY_CAP` (R236). -/
def State.keyOver (s : State) : Bool := decide (s.cfg.keyCap < s.key.len.toNat)

/-- `AUXLEN` > `AUX_CAP` (R236). -/
def State.auxOver (s : State) : Bool := decide (s.cfg.auxCap < s.aux.len.toNat)

/-- `MSGLEN` > `MSG_CAP` (R236). -/
def State.msgOver (s : State) : Bool := decide (s.cfg.msgCap < s.msg.len.toNat)

/-- `OUTLEN` > `OUT_CAP` (R82 to R84). -/
def State.outOver (s : State) : Bool := decide (s.cfg.outCap < s.out.len.toNat)

/-- `OUTLEN` > the capacity `cap` of a move's destination (R82 to R84). -/
def State.outExceeds (s : State) (cap : Nat) : Bool := decide (cap < s.out.len.toNat)

/-- The parameter tests of `TRUNC` (R160, R234). -/
def State.badTrunc (s : State) : Bool := decide (s.out.len.toNat < s.reqlen.toNat)

/-- The parameter tests of `NFOLD` (R93, R234). -/
def State.badNfold (s : State) : Bool :=
  s.msgOver || decide (s.msg.len = 0#32) || decide (s.nbits = 0#32) || decide (s.nbits.toNat % 8 ≠ 0) ||
  decide (s.cfg.outCap < s.nbits.toNat / 8)

/-- The parameter tests of `HMAC` (R102, R234). -/
def State.badHmac (s : State) : Bool := s.keyOver || s.msgOver

/-- The parameter tests of `CMAC` under a cipher whose key has `keySize` bytes (R113, R234). -/
def State.badCmac (s : State) (keySize : Nat) : Bool := s.keyOver || s.msgOver || decide (s.key.len.toNat ≠ keySize)

/-- The parameter tests of `DR` and `DK` under a cipher whose key has `keySize` bytes (R124, R125, R234). -/
def State.badDerive (s : State) (keySize : Nat) : Bool :=
  s.keyOver || s.auxOver || decide (s.key.len.toNat ≠ keySize) || decide (s.aux.len = 0#32)

/-- The parameter tests of `R2K` for a cipher that takes `keyInputSize` random bytes (R126, R234). -/
def State.badRandomToKey (s : State) (keyInputSize : Nat) : Bool :=
  s.keyOver || decide (s.key.len.toNat ≠ keyInputSize)

/-- The parameter tests of `PBKDF2` (R142, R234). -/
def State.badPbkdf2 (s : State) : Bool :=
  s.keyOver || s.auxOver || decide (s.iter = 0#32) || decide (s.reqlen = 0#32) ||
  decide (s.cfg.outCap < s.reqlen.toNat)

/-- The parameter test of `CONF` (R152, R234). -/
def State.badConf (s : State) : Bool := decide (s.cfg.outCap < s.reqlen.toNat)

end Sys2Proof.Machine
end

