-- ==== Sys2Proof/Machine/Aes.lean ====
section
/-! DEFINITION. The intended instantiation of `Enc[AES128]` and `Enc[AES256]` (48_providers.md R176). The spec names the
cipher and gives known answers; its inside is PRESUMED, from FIPS 197 (log 5, unsafe). A state is 16 bytes, column by
column. -/

namespace Sys2Proof.Machine

/-- The rows of the substitution box, sixteen entries a row, first entry in the highest byte. PRESUMED (log 5). -/
def aesSboxRows : List Nat :=
  [0x637c777bf26b6fc53001672bfed7ab76, 0xca82c97dfa5947f0add4a2af9ca472c0,
   0xb7fd9326363ff7cc34a5e5f171d83115, 0x04c723c31896059a071280e2eb27b275] ++
  [0x09832c1a1b6e5aa0523bd6b329e32f84, 0x53d100ed20fcb15b6acbbe394a4c58cf,
   0xd0efaafb434d338545f9027f503c9fa8, 0x51a3408f929d38f5bcb6da2110fff3d2] ++
  [0xcd0c13ec5f974417c4a77e3d645d1973, 0x60814fdc222a908846eeb814de5e0bdb,
   0xe0323a0a4906245cc2d3ac629195e479, 0xe7c8376d8dd54ea96c56f4ea657aae08] ++
  [0xba78252e1ca6b4c6e8dd741f4bbd8b8a, 0x703eb5664803f60e613557b986c11d9e,
   0xe1f8981169d98e949b1e87e9ce5528df, 0x8ca1890dbfe6426841992d0fb054bb16]

/-- The substitution box. -/
def aesSbox (x : Byte) : Byte :=
  BitVec.ofNat 8 (aesSboxRows.getD (x.toNat / 16) 0 >>> (8 * (15 - x.toNat % 16)))

/-- Multiplication by `x` in the field of 256 elements with reduction `0x1b`. -/
def aesDouble (b : Byte) : Byte := (b <<< 1) ^^^ (if b.msb then 0x1b#8 else 0#8)

/-- Row `r` of the state rotated left by `r`. -/
def aesShiftRows (s : Bytes) : Bytes :=
  (List.range 16).map fun i => s.getD (i % 4 + 4 * ((i / 4 + i % 4) % 4)) 0#8

/-- One column times the fixed matrix. -/
def aesMixColumn (col : Bytes) : Bytes :=
  (List.range 4).map fun i =>
    aesDouble (col.getD i 0#8 ^^^ col.getD ((i + 1) % 4) 0#8) ^^^ col.getD ((i + 1) % 4) 0#8 ^^^
      col.getD ((i + 2) % 4) 0#8 ^^^ col.getD ((i + 3) % 4) 0#8

/-- Every column times the fixed matrix. -/
def aesMixColumns (s : Bytes) : Bytes := (pieces 4 s).flatMap aesMixColumn

/-- The round constant number `j`, from 1. -/
def aesRcon (j : Nat) : Byte :=
  [0x01#8, 0x02#8, 0x04#8, 0x08#8, 0x10#8, 0x20#8, 0x40#8, 0x80#8, 0x1b#8, 0x36#8].getD (j - 1) 0#8

/-- What is added to word `i - nk` to make word `i` of the key schedule, `prev` being word `i - 1`. -/
def aesScheduleTerm (nk i : Nat) (prev : Bytes) : Bytes :=
  if i % nk = 0 then xorBytes ((prev.drop 1 ++ prev.take 1).map aesSbox) (aesRcon (i / nk) :: zeros 3)
  else if nk = 8 ∧ i % nk = 4 then prev.map aesSbox
  else prev

/-- `n` further words of the key schedule in front of `ws`, newest first, the next one being word `i`. -/
def aesExpand (nk : Nat) : Nat → Nat → List Bytes → List Bytes
  | 0, _, ws => ws
  | n + 1, i, ws =>
    aesExpand nk n (i + 1) (xorBytes (ws.getD (nk - 1) []) (aesScheduleTerm nk i (ws.getD 0 [])) :: ws)

/-- The round keys of a key of `4 * nk` bytes, `rounds + 1` of them, 16 bytes each. -/
def aesRoundKeys (nk rounds : Nat) (key : Bytes) : List Bytes :=
  pieces 16 (aesExpand nk (4 * (rounds + 1) - nk) nk (pieces 4 key).reverse).reverse.flatten

/-- A round under round key `k`. -/
def aesRound (s k : Bytes) : Bytes := xorBytes (aesMixColumns (aesShiftRows (s.map aesSbox))) k

/-- One block under a key of `4 * nk` bytes with `nk + 6` rounds; the last round does not mix columns. -/
def aesEncrypt (nk : Nat) (key block : Bytes) : Bytes :=
  let keys := aesRoundKeys nk (nk + 6) key
  let s := ((keys.drop 1).take (nk + 5)).foldl aesRound (xorBytes block (keys.getD 0 []))
  xorBytes (aesShiftRows (s.map aesSbox)) (keys.getD (nk + 6) [])

end Sys2Proof.Machine
end

