-- ==== Sys2Proof/Machine/Camellia.lean ====
section
/-! DEFINITION. The intended instantiation of `Enc[CAM128]` and `Enc[CAM256]` (48_providers.md R177). The spec names the
cipher and gives known answers; its inside is PRESUMED, from RFC 3713 (log 5, unsafe). -/

namespace Sys2Proof.Machine

/-- The rows of the first substitution box, sixteen entries a row, first entry in the highest byte. PRESUMED (log 5). -/
def camSboxRows : List Nat :=
  [0x70822cecb327c0e5e4855735ea0cae41, 0x23ef6b934519a521ed0e4f4e1d6592bd,
   0x86b8af8f7ceb1fce3e30dc5f5ec50b1a, 0xa6e139cad5475d3dd9015ad651566c4d] ++
  [0x8b0d9a66fbccb02d74122b20f0b18499, 0xdf4ccbc2347e76056db7a931d11704d7,
   0x14583a61de1b111c320f9c165318f222, 0xfe44cfb2c3b57a912408e8a860fc6950] ++
  [0xaad0a07da1896297545b1e95e0ff64d2, 0x10c40048a3f775db8a03e6da093fdd94,
   0x875c8302cd4a90337367f6f39d7fbfe2, 0x529bd826c837c63b81966f4b13be632e] ++
  [0xe979a78c9f6ebc8e29f5f9b62ffdb459, 0x7898066ae74671bad425ab4288a28dfa,
   0x7207b955f8eeac0a36492a683c38f1a4, 0x4028d37bbbc943c115e3adf477c7809e]

/-- The first substitution box. -/
def camSbox1 (x : Byte) : Byte :=
  BitVec.ofNat 8 (camSboxRows.getD (x.toNat / 16) 0 >>> (8 * (15 - x.toNat % 16)))

/-- The second substitution box. -/
def camSbox2 (x : Byte) : Byte := (camSbox1 x).rotateLeft 1

/-- The third substitution box. -/
def camSbox3 (x : Byte) : Byte := (camSbox1 x).rotateLeft 7

/-- The fourth substitution box. -/
def camSbox4 (x : Byte) : Byte := camSbox1 (x.rotateLeft 1)

/-- Eight bytes as one 64-bit value, first byte highest. -/
def camJoin (b1 b2 b3 b4 b5 b6 b7 b8 : Byte) : BitVec 64 := b1 ++ b2 ++ b3 ++ b4 ++ b5 ++ b6 ++ b7 ++ b8

/-- The round function under subkey `k`. -/
def camF (x k : BitVec 64) : BitVec 64 :=
  let v := x ^^^ k
  let t1 := camSbox1 (v.extractLsb' 56 8)
  let t2 := camSbox2 (v.extractLsb' 48 8)
  let t3 := camSbox3 (v.extractLsb' 40 8)
  let t4 := camSbox4 (v.extractLsb' 32 8)
  let t5 := camSbox2 (v.extractLsb' 24 8)
  let t6 := camSbox3 (v.extractLsb' 16 8)
  let t7 := camSbox4 (v.extractLsb' 8 8)
  let t8 := camSbox1 (v.extractLsb' 0 8)
  camJoin (t1 ^^^ t3 ^^^ t4 ^^^ t6 ^^^ t7 ^^^ t8) (t1 ^^^ t2 ^^^ t4 ^^^ t5 ^^^ t7 ^^^ t8)
    (t1 ^^^ t2 ^^^ t3 ^^^ t5 ^^^ t6 ^^^ t8) (t2 ^^^ t3 ^^^ t4 ^^^ t5 ^^^ t6 ^^^ t7)
    (t1 ^^^ t2 ^^^ t6 ^^^ t7 ^^^ t8) (t2 ^^^ t3 ^^^ t5 ^^^ t7 ^^^ t8)
    (t3 ^^^ t4 ^^^ t5 ^^^ t6 ^^^ t8) (t1 ^^^ t4 ^^^ t5 ^^^ t6 ^^^ t7)

/-- The function between groups of rounds, on the left half. -/
def camFL (x k : BitVec 64) : BitVec 64 :=
  let x1 : Word := x.extractLsb' 32 32
  let x2 : Word := x.extractLsb' 0 32
  let y2 := x2 ^^^ (x1 &&& k.extractLsb' 32 32).rotateLeft 1
  let y1 := x1 ^^^ (y2 ||| k.extractLsb' 0 32)
  y1 ++ y2

/-- Its inverse, on the right half. -/
def camFLInv (y k : BitVec 64) : BitVec 64 :=
  let y1 : Word := y.extractLsb' 32 32
  let y2 : Word := y.extractLsb' 0 32
  let x1 := y1 ^^^ (y2 ||| k.extractLsb' 0 32)
  let x2 := y2 ^^^ (x1 &&& k.extractLsb' 32 32).rotateLeft 1
  x1 ++ x2

/-- The two halves of a 128-bit value. -/
abbrev CamHalves := BitVec 64 × BitVec 64

/-- The left half, bits 127:64. -/
def camHi (x : BitVec 128) : BitVec 64 := x.extractLsb' 64 64

/-- The right half, bits 63:0. -/
def camLo (x : BitVec 128) : BitVec 64 := x.extractLsb' 0 64

/-- Two rounds under the subkeys `k1`, `k2`. -/
def camTwoRounds (d : CamHalves) (k1 k2 : BitVec 64) : CamHalves :=
  let r := d.2 ^^^ camF d.1 k1
  (d.1 ^^^ camF r k2, r)

/-- Two rounds under the halves of a 128-bit value: the shape of most subkey pairs. -/
def camRounds (d : CamHalves) (k : BitVec 128) : CamHalves := camTwoRounds d (camHi k) (camLo k)

/-- The layer between groups of six rounds under the halves of a 128-bit value. -/
def camLayer (d : CamHalves) (k : BitVec 128) : CamHalves := (camFL d.1 (camHi k), camFLInv d.2 (camLo k))

/-- The halves with the halves of `k` added: the whitening. -/
def camWhiten (d : CamHalves) (k : BitVec 128) : CamHalves := (d.1 ^^^ camHi k, d.2 ^^^ camLo k)

/-- A 128-bit value as its two halves. -/
def camSplit (x : BitVec 128) : CamHalves := (camHi x, camLo x)

/-- `KA` of the key schedule. -/
def camKA (kl kr : BitVec 128) : BitVec 128 :=
  let d := camTwoRounds (camSplit (kl ^^^ kr)) 0xA09E667F3BCC908B#64 0xB67AE8584CAA73B2#64
  let d := camTwoRounds (camWhiten d kl) 0xC6EF372FE94F82BE#64 0x54FF53A5F1D36F1C#64
  d.1 ++ d.2

/-- `KB` of the key schedule. -/
def camKB (ka kr : BitVec 128) : BitVec 128 :=
  let d := camTwoRounds (camSplit (ka ^^^ kr)) 0x10E527FADE682D1D#64 0xB05688C2B3E6C1FD#64
  d.1 ++ d.2

/-- The last whitening under `k`, the halves exchanged: the ciphertext block. -/
def camFinish (d : CamHalves) (k : BitVec 128) : BitVec 128 := (d.2 ^^^ camHi k) ++ (d.1 ^^^ camLo k)

/-- Camellia with a 128-bit key. -/
def camEncrypt128 (key block : BitVec 128) : BitVec 128 :=
  let ka := camKA key 0#128
  let d := camWhiten (camSplit block) key
  let d := camRounds (camRounds (camRounds d ka) (key.rotateLeft 15)) (ka.rotateLeft 15)
  let d := camLayer d (ka.rotateLeft 30)
  let d := camRounds d (key.rotateLeft 45)
  let d := camTwoRounds d (camHi (ka.rotateLeft 45)) (camLo (key.rotateLeft 60))
  let d := camRounds d (ka.rotateLeft 60)
  let d := camLayer d (key.rotateLeft 77)
  let d := camRounds (camRounds (camRounds d (key.rotateLeft 94)) (ka.rotateLeft 94)) (key.rotateLeft 111)
  camFinish d (ka.rotateLeft 111)

/-- Camellia with a 256-bit key. -/
def camEncrypt256 (key : BitVec 256) (block : BitVec 128) : BitVec 128 :=
  let kl := key.extractLsb' 128 128
  let kr := key.extractLsb' 0 128
  let ka := camKA kl kr
  let kb := camKB ka kr
  let d := camWhiten (camSplit block) kl
  let d := camRounds (camRounds (camRounds d kb) (kr.rotateLeft 15)) (ka.rotateLeft 15)
  let d := camLayer d (kr.rotateLeft 30)
  let d := camRounds (camRounds (camRounds d (kb.rotateLeft 30)) (kl.rotateLeft 45)) (ka.rotateLeft 45)
  let d := camLayer d (kl.rotateLeft 60)
  let d := camRounds (camRounds (camRounds d (kr.rotateLeft 60)) (kb.rotateLeft 60)) (kl.rotateLeft 77)
  let d := camLayer d (ka.rotateLeft 77)
  let d := camRounds (camRounds (camRounds d (kr.rotateLeft 94)) (ka.rotateLeft 94)) (kl.rotateLeft 111)
  camFinish d (kb.rotateLeft 111)

end Sys2Proof.Machine
end

