-- ==== Sys2Proof/Machine/Des.lean ====
section
/-! DEFINITION. The intended instantiation of `Enc[DES3]` (48_providers.md R181): three-key triple-DES, encrypt, decrypt,
encrypt. The inside of DES is PRESUMED, from FIPS 46-3 (log 5, unsafe). Positions in the tables count from 1, the most
significant bit first. -/

namespace Sys2Proof.Machine

/-- The bits of `x` at the listed positions, as an `m`-bit value. -/
def desPermute (table : List Nat) (m : Nat) {n : Nat} (x : BitVec n) : BitVec m :=
  BitVec.ofNat m (table.foldl (fun acc p => 2 * acc + (x.getMsbD (p - 1)).toNat) 0)

/-- The initial permutation. PRESUMED (log 5). -/
def desIP : List Nat :=
  [58, 50, 42, 34, 26, 18, 10, 2, 60, 52, 44, 36, 28, 20, 12, 4] ++
  [62, 54, 46, 38, 30, 22, 14, 6, 64, 56, 48, 40, 32, 24, 16, 8] ++
  [57, 49, 41, 33, 25, 17, 9, 1, 59, 51, 43, 35, 27, 19, 11, 3] ++
  [61, 53, 45, 37, 29, 21, 13, 5, 63, 55, 47, 39, 31, 23, 15, 7]

/-- The inverse of the initial permutation. PRESUMED (log 5). -/
def desFP : List Nat :=
  [40, 8, 48, 16, 56, 24, 64, 32, 39, 7, 47, 15, 55, 23, 63, 31] ++
  [38, 6, 46, 14, 54, 22, 62, 30, 37, 5, 45, 13, 53, 21, 61, 29] ++
  [36, 4, 44, 12, 52, 20, 60, 28, 35, 3, 43, 11, 51, 19, 59, 27] ++
  [34, 2, 42, 10, 50, 18, 58, 26, 33, 1, 41, 9, 49, 17, 57, 25]

/-- The expansion of a half block. PRESUMED (log 5). -/
def desE : List Nat :=
  [32, 1, 2, 3, 4, 5, 4, 5, 6, 7, 8, 9] ++
  [8, 9, 10, 11, 12, 13, 12, 13, 14, 15, 16, 17] ++
  [16, 17, 18, 19, 20, 21, 20, 21, 22, 23, 24, 25] ++
  [24, 25, 26, 27, 28, 29, 28, 29, 30, 31, 32, 1]

/-- The permutation after the boxes. PRESUMED (log 5). -/
def desP : List Nat :=
  [16, 7, 20, 21, 29, 12, 28, 17, 1, 15, 23, 26, 5, 18, 31, 10] ++
  [2, 8, 24, 14, 32, 27, 3, 9, 19, 13, 30, 6, 22, 11, 4, 25]

/-- The first key choice: no position is a multiple of 8. PRESUMED (log 5). -/
def desPC1 : List Nat :=
  [57, 49, 41, 33, 25, 17, 9, 1, 58, 50, 42, 34, 26, 18] ++
  [10, 2, 59, 51, 43, 35, 27, 19, 11, 3, 60, 52, 44, 36] ++
  [63, 55, 47, 39, 31, 23, 15, 7, 62, 54, 46, 38, 30, 22] ++
  [14, 6, 61, 53, 45, 37, 29, 21, 13, 5, 28, 20, 12, 4]

/-- The second key choice. PRESUMED (log 5). -/
def desPC2 : List Nat :=
  [14, 17, 11, 24, 1, 5, 3, 28, 15, 6, 21, 10] ++
  [23, 19, 12, 4, 26, 8, 16, 7, 27, 20, 13, 2] ++
  [41, 52, 31, 37, 47, 55, 30, 40, 51, 45, 33, 48] ++
  [44, 49, 39, 56, 34, 53, 46, 42, 50, 36, 29, 32]

/-- How far the key halves are turned in each round, summed from the first. PRESUMED (log 5). -/
def desTurns : List Nat :=
  [1, 2, 4, 6, 8, 10, 12, 14, 15, 17, 19, 21, 23, 25, 27, 28]

/-- The eight boxes, four rows each, sixteen 4-bit entries a row, first entry highest. PRESUMED (log 5). -/
def desSboxRows : List Nat :=
  [0xe4d12fb83a6c5907, 0x0f74e2d1a6cb9538, 0x41e8d62bfc973a50, 0xfc8249175b3ea06d] ++
  [0xf18e6b34972dc05a, 0x3d47f28ec01a69b5, 0x0e7ba4d158c6932f, 0xd8a13f42b67c05e9] ++
  [0xa09e63f51dc7b428, 0xd709346a285ecbf1, 0xd6498f30b12c5ae7, 0x1ad069874fe3b52c] ++
  [0x7de3069a1285bc4f, 0xd8b56f03472c1ae9, 0xa690cb7df13e5284, 0x3f06a1d8945bc72e] ++
  [0x2c417ab6853fd0e9, 0xeb2c47d150fa3986, 0x421bad78f9c5630e, 0xb8c71e2d6f09a453] ++
  [0xc1af92680d34e75b, 0xaf427c9561de0b38, 0x9ef528c3704a1db6, 0x432c95fabe17608d] ++
  [0x4b2ef08d3c975a61, 0xd0b7491ae35c2f86, 0x14bdc37eaf680592, 0x6bd814a7950fe23c] ++
  [0xd2846fb1a93e50c7, 0x1fd8a374c56b0e92, 0x7b419ce206adf358, 0x21e74a8dfc90356b]

/-- Box number `j`, from 0, of a six-bit value: the outer bits choose the row, the inner four the column. -/
def desSbox (j : Nat) (x : BitVec 6) : BitVec 4 :=
  let row := 2 * (x.getLsbD 5).toNat + (x.getLsbD 0).toNat
  let col := (x.extractLsb' 1 4).toNat
  BitVec.ofNat 4 ((desSboxRows.getD (4 * j + row) 0) >>> (4 * (15 - col)))

/-- The eight boxes on 48 bits. -/
def desSubstitute (x : BitVec 48) : Word :=
  BitVec.ofNat 32 ((List.range 8).foldl
    (fun acc j => 16 * acc + (desSbox j (x.extractLsb' (42 - 6 * j) 6)).toNat) 0)

/-- The round function under a 48-bit subkey. -/
def desF (r : Word) (k : BitVec 48) : Word :=
  desPermute desP 32 (desSubstitute (desPermute desE 48 r ^^^ k))

/-- The sixteen subkeys of a key, first round first. Bit 0 of each key byte is not selected (R181). -/
def desSubkeys (key : BitVec 64) : List (BitVec 48) :=
  let cd : BitVec 56 := desPermute desPC1 56 key
  let c : BitVec 28 := cd.extractLsb' 28 28
  let d : BitVec 28 := cd.extractLsb' 0 28
  desTurns.map fun t => desPermute desPC2 48 (c.rotateLeft t ++ d.rotateLeft t)

/-- One round on the halves. -/
def desRound (lr : Word × Word) (k : BitVec 48) : Word × Word := (lr.2, lr.1 ^^^ desF lr.2 k)

/-- The sixteen rounds under the listed subkeys, between the initial permutation and its inverse. -/
def desRun (subkeys : List (BitVec 48)) (block : BitVec 64) : BitVec 64 :=
  let x : BitVec 64 := desPermute desIP 64 block
  let lr := subkeys.foldl desRound (x.extractLsb' 32 32, x.extractLsb' 0 32)
  desPermute desFP 64 (lr.2 ++ lr.1)

/-- `DES_E(key, block)` (R181). -/
def desEncrypt (key block : BitVec 64) : BitVec 64 := desRun (desSubkeys key) block

/-- `DES_D(key, block)` (R181). -/
def desDecrypt (key block : BitVec 64) : BitVec 64 := desRun (desSubkeys key).reverse block

/-- `Enc[DES3](key, b) = DES_E(k3, DES_D(k2, DES_E(k1, b)))` (R181). -/
def des3Encrypt (key : BitVec 192) (block : BitVec 64) : BitVec 64 :=
  desEncrypt (key.extractLsb' 0 64)
    (desDecrypt (key.extractLsb' 64 64) (desEncrypt (key.extractLsb' 128 64) block))

end Sys2Proof.Machine
end

