-- ==== Sys2Proof/Machine/Providers.lean ====
section
/-! DEFINITION. The cipher registry (48_providers.md R172) and the five block-cipher cores `Enc[c]` (R173): the intended
instantiation (R176, R177, R181) or the opaque permutations of Config (log 4). -/

namespace Sys2Proof.Machine

/-- `blockSize`, bytes (R172). -/
def cipherBlockSize : Cipher → Nat
  | .des3 => 8
  | .aes128 => 16
  | .aes256 => 16
  | .cam128 => 16
  | .cam256 => 16

/-- `keyInputSize`, bytes (R172). -/
def cipherKeyInputSize : Cipher → Nat
  | .des3 => 21
  | .aes128 => 16
  | .aes256 => 32
  | .cam128 => 16
  | .cam256 => 32

/-- `keySize`, bytes (R172). -/
def cipherKeySize : Cipher → Nat
  | .des3 => 24
  | .aes128 => 16
  | .aes256 => 32
  | .cam128 => 16
  | .cam256 => 32

/-- Whether the derivation profile is the formatted one (R120, R172). -/
def cipherFormatted : Cipher → Bool
  | .des3 => false
  | .aes128 => false
  | .aes256 => false
  | .cam128 => true
  | .cam256 => true

/-- A byte string as a value of `n` bits, big-endian (R7). -/
def bytesToBits (n : Nat) (b : Bytes) : BitVec n := BitVec.ofNat n (bytesToNat b)

/-- `Enc[AES128]` of R173. -/
def aes128Core (cores : Cores) (key : BitVec 128) (block : BitVec 128) : BitVec 128 :=
  match cores with
  | .intended => bytesToBits 128 (aesEncrypt 4 (natToBytes 16 key.toNat) (natToBytes 16 block.toNat))
  | .external => Config.extAes128 key block

/-- `Enc[AES256]` of R173. -/
def aes256Core (cores : Cores) (key : BitVec 256) (block : BitVec 128) : BitVec 128 :=
  match cores with
  | .intended => bytesToBits 128 (aesEncrypt 8 (natToBytes 32 key.toNat) (natToBytes 16 block.toNat))
  | .external => Config.extAes256 key block

/-- `Enc[CAM128]` of R173. -/
def cam128Core (cores : Cores) (key : BitVec 128) (block : BitVec 128) : BitVec 128 :=
  match cores with
  | .intended => camEncrypt128 key block
  | .external => Config.extCam128 key block

/-- `Enc[CAM256]` of R173. -/
def cam256Core (cores : Cores) (key : BitVec 256) (block : BitVec 128) : BitVec 128 :=
  match cores with
  | .intended => camEncrypt256 key block
  | .external => Config.extCam256 key block

/-- `Enc[DES3]` of R173. -/
def des3Core (cores : Cores) (key : BitVec 192) (block : BitVec 64) : BitVec 64 :=
  match cores with
  | .intended => des3Encrypt key block
  | .external => Config.extDes3 key block

/-- `Enc[c](key, block)` on byte strings of the lengths of R172, to `blockSize(c)` bytes (R173; log 15 for other
lengths, which no command asks for). -/
def encBlock (cores : Cores) (c : Cipher) (key block : Bytes) : Bytes :=
  match c with
  | .des3 => natToBytes 8 (des3Core cores (bytesToBits 192 key) (bytesToBits 64 block)).toNat
  | .aes128 => natToBytes 16 (aes128Core cores (bytesToBits 128 key) (bytesToBits 128 block)).toNat
  | .aes256 => natToBytes 16 (aes256Core cores (bytesToBits 256 key) (bytesToBits 128 block)).toNat
  | .cam128 => natToBytes 16 (cam128Core cores (bytesToBits 128 key) (bytesToBits 128 block)).toNat
  | .cam256 => natToBytes 16 (cam256Core cores (bytesToBits 256 key) (bytesToBits 128 block)).toNat

end Sys2Proof.Machine
end

