-- ==== Sys2Proof/Machine/Cmac.lean ====
section
/-! DEFINITION. The CMAC unit (43_cmac.md R111, R112) and its commands (R113). -/

namespace Sys2Proof.Machine

/-- `dbl(b)`: multiplication by `x` in the field of 2^128 elements with reduction `0x87` (R111). -/
def cmacDouble (b : Bytes) : Bytes :=
  let v := bytesToNat b * 2
  natToBytes 16 (if 2 ^ 128 ≤ v then (v % 2 ^ 128) ^^^ 0x87 else v)

/-- The number of blocks of a message, 1 for the empty one (R112). -/
def cmacBlocks (msg : Bytes) : Nat := max 1 (ceilDiv msg.length 16)

/-- `last` of R112: the final block, complete under `k1` or padded under `k2`. -/
def cmacLast (k1 k2 msg : Bytes) : Bytes :=
  let last := msg.drop (16 * (cmacBlocks msg - 1))
  if 0 < msg.length ∧ msg.length % 16 = 0 then xorBytes last k1
  else xorBytes (last ++ [0x80#8] ++ zeros (15 - last.length)) k2

/-- `CMAC` over the one-block function `enc` of the key (R112). -/
def cmacWith (enc : Bytes → Bytes) (msg : Bytes) : Bytes :=
  let k1 := cmacDouble (enc (zeros 16))
  let k2 := cmacDouble k1
  let x := (pieces 16 (msg.take (16 * (cmacBlocks msg - 1)))).foldl (fun x b => enc (xorBytes x b)) (zeros 16)
  enc (xorBytes x (cmacLast k1 k2 msg))

/-- `CMAC[c](key, msg)` for a cipher with a 16-byte block (R112). -/
def cmac (cores : Cores) (c : Cipher) (key msg : Bytes) : Bytes := cmacWith (encBlock cores c key) msg

/-- `CMAC` with cipher `c` (R113). Key-using. -/
def cmacCommand (c : Cipher) (keep : Bool) (s : State) : Result :=
  if s.badCmac (cipherKeySize c) then .next (raiseError .invalidParameter (!keep) s)
  else .next (publishKeyed keep (cmac s.cfg.cores c s.key.valid s.msg.valid) s)

/-- `CMAC.AES128` (R113). -/
def execCmacAes128 (keep : Bool) (s : State) : Result := cmacCommand .aes128 keep s

/-- `CMAC.AES256` (R113). -/
def execCmacAes256 (keep : Bool) (s : State) : Result := cmacCommand .aes256 keep s

/-- `CMAC.CAM128` (R113). -/
def execCmacCam128 (keep : Bool) (s : State) : Result := cmacCommand .cam128 keep s

/-- `CMAC.CAM256` (R113). -/
def execCmacCam256 (keep : Bool) (s : State) : Result := cmacCommand .cam256 keep s

end Sys2Proof.Machine
end

