-- ==== Sys2Proof/Machine/Compare.lean ====
section
/-! DEFINITION. Truncation and MAC comparison (47_compare.md R160, R162). Neither is key-using. -/

namespace Sys2Proof.Machine

/-- `TRUNC` (R160): the leading `REQLEN` bytes of `O`. -/
def execTrunc (_keep : Bool) (s : State) : Result :=
  if s.badTrunc then .next (raiseError .invalidParameter false s)
  else .next (publish (Memory.slice s.out.bytes s.reqlen.toNat) s)

/-- `diff` of R162 over two strings of equal length: every byte is examined. -/
def macDiff (a b : Bytes) : Byte := (xorBytes a b).foldl (fun d x => d ||| x) 0#8

/-- Whether the comparison of R162 fails. -/
def State.macMismatch (s : State) : Bool :=
  decide (s.out.len = 0#32) || decide (s.out.len ≠ s.aux.len) || decide (macDiff s.out.valid s.aux.valid ≠ 0#8)

/-- `MACCMP` (R162): `O` against `A`; on a match only `STATUS` changes. -/
def execMaccmp (_keep : Bool) (s : State) : Result :=
  if s.auxOver then .next (raiseError .invalidParameter false s)
  else if s.macMismatch then .next (raiseError .integrityFailure false s)
  else .next { s with status := statusDone true }

end Sys2Proof.Machine
end

