-- ==== Sys2Proof/Machine/Confounder.lean ====
section
/-! DEFINITION. The confounder generator (46_confounder.md R151) and its command (R152). -/

namespace Sys2Proof.Machine

/-- `draw(n)` (R151, R178): the next draw from the source that came with the command, `n` free bytes (log 6). -/
def drawBytes (s : State) (n : Nat) : Bytes := (List.range n).map (Config.draw s.source s.fresh)

/-- `CONF` (R152): `O <- draw(REQLEN)`. Not key-using; each `CONF` is a new draw. -/
def execConf (_keep : Bool) (s : State) : Result :=
  if s.badConf then .next (raiseError .invalidParameter false s)
  else .next { publish (drawBytes s s.reqlen.toNat) s with fresh := s.fresh + 1 }

end Sys2Proof.Machine
end

