-- ==== Sys2Proof/Machine/Hash.lean ====
section
/-! DEFINITION. The two hash cores: SHA-1 (48_providers.md R174) and MD5 (R175), and the registry row of each (R170).
Words are 32 bits and `+` is addition modulo 2^32. -/

namespace Sys2Proof.Machine

/-- The padding of R174 and R175 before the length field: `0x80` and the least number of zero bytes that makes the
padded length, with the 8-byte length field, a multiple of 64. -/
def hashPadding (len : Nat) : Bytes := 0x80#8 :: zeros ((119 - len % 64) % 64)

/-! ### SHA-1 -/

/-- The chaining value and the working variables of SHA-1; `c` is the `c5` of R174. -/
structure Sha1State where
  a : Word
  b : Word
  c : Word
  d : Word
  e : Word
deriving DecidableEq, Repr

/-- The initial chaining value (R174). -/
def sha1Init : Sha1State :=
  { a := 0x67452301#32, b := 0xEFCDAB89#32, c := 0x98BADCFE#32, d := 0x10325476#32, e := 0xC3D2E1F0#32 }

/-- `n` further words of the schedule in front of `ws`, newest first: `W[t]` from `W[t-3]`, `W[t-8]`, `W[t-14]`,
`W[t-16]` (R174). -/
def sha1Expand : Nat → List Word → List Word
  | 0, ws => ws
  | n + 1, ws =>
    sha1Expand n ((ws.getD 2 0#32 ^^^ ws.getD 7 0#32 ^^^ ws.getD 13 0#32 ^^^ ws.getD 15 0#32).rotateLeft 1 :: ws)

/-- `W[0..79]` of a 64-byte chunk, oldest first (R174). -/
def sha1Schedule (chunk : Bytes) : List Word :=
  (sha1Expand 64 (((pieces 4 chunk).map fun q => BitVec.ofNat 32 (bytesToNat q)).reverse)).reverse

/-- `f` of round `t` (R174). -/
def sha1F (t : Nat) (b c d : Word) : Word :=
  if t ≤ 19 then (b &&& c) ||| (~~~b &&& d)
  else if t ≤ 39 then b ^^^ c ^^^ d
  else if t ≤ 59 then (b &&& c) ||| (b &&& d) ||| (c &&& d)
  else b ^^^ c ^^^ d

/-- `k` of round `t` (R174). -/
def sha1K (t : Nat) : Word :=
  if t ≤ 19 then 0x5A827999#32
  else if t ≤ 39 then 0x6ED9EBA1#32
  else if t ≤ 59 then 0x8F1BBCDC#32
  else 0xCA62C1D6#32

/-- Round `t` with schedule word `w` (R174). -/
def sha1Round (h : Sha1State) (tw : Nat × Word) : Sha1State :=
  { a := h.a.rotateLeft 5 + sha1F tw.1 h.b h.c h.d + h.e + sha1K tw.1 + tw.2
    b := h.a
    c := h.b.rotateLeft 30
    d := h.c
    e := h.d }

/-- One chunk into the chaining value (R174). -/
def sha1Chunk (h : Sha1State) (chunk : Bytes) : Sha1State :=
  let r := ((List.range 80).zip (sha1Schedule chunk)).foldl sha1Round h
  { a := h.a + r.a, b := h.b + r.b, c := h.c + r.c, d := h.d + r.d, e := h.e + r.e }

/-- `Hash[SHA1](m)` (R174): 20 bytes. -/
def sha1 (m : Bytes) : Bytes :=
  let h := (pieces 64 (m ++ hashPadding m.length ++ be64 (8 * m.length))).foldl sha1Chunk sha1Init
  be32 h.a.toNat ++ be32 h.b.toNat ++ be32 h.c.toNat ++ be32 h.d.toNat ++ be32 h.e.toNat

/-! ### MD5 -/

/-- The chaining value and the working variables of MD5; `c` is the `c4` of R175. -/
structure Md5State where
  a : Word
  b : Word
  c : Word
  d : Word
deriving DecidableEq, Repr

/-- The initial chaining value (R175). -/
def md5Init : Md5State := { a := 0x67452301#32, b := 0xEFCDAB89#32, c := 0x98BADCFE#32, d := 0x10325476#32 }

/-- The four shift amounts of each group of sixteen rounds (R175). -/
def md5Shift (i : Nat) : Nat :=
  if i ≤ 15 then [7, 12, 17, 22].getD (i % 4) 0
  else if i ≤ 31 then [5, 9, 14, 20].getD (i % 4) 0
  else if i ≤ 47 then [4, 11, 16, 23].getD (i % 4) 0
  else [6, 10, 15, 21].getD (i % 4) 0

/-- The constants `T[0..63]` (R175). -/
def md5T : List Nat :=
  [0xD76AA478, 0xE8C7B756, 0x242070DB, 0xC1BDCEEE, 0xF57C0FAF, 0x4787C62A, 0xA8304613, 0xFD469501] ++
  [0x698098D8, 0x8B44F7AF, 0xFFFF5BB1, 0x895CD7BE, 0x6B901122, 0xFD987193, 0xA679438E, 0x49B40821] ++
  [0xF61E2562, 0xC040B340, 0x265E5A51, 0xE9B6C7AA, 0xD62F105D, 0x02441453, 0xD8A1E681, 0xE7D3FBC8] ++
  [0x21E1CDE6, 0xC33707D6, 0xF4D50D87, 0x455A14ED, 0xA9E3E905, 0xFCEFA3F8, 0x676F02D9, 0x8D2A4C8A] ++
  [0xFFFA3942, 0x8771F681, 0x6D9D6122, 0xFDE5380C, 0xA4BEEA44, 0x4BDECFA9, 0xF6BB4B60, 0xBEBFBC70] ++
  [0x289B7EC6, 0xEAA127FA, 0xD4EF3085, 0x04881D05, 0xD9D4D039, 0xE6DB99E5, 0x1FA27CF8, 0xC4AC5665] ++
  [0xF4292244, 0x432AFF97, 0xAB9423A7, 0xFC93A039, 0x655B59C3, 0x8F0CCC92, 0xFFEFF47D, 0x85845DD1] ++
  [0x6FA87E4F, 0xFE2CE6E0, 0xA3014314, 0x4E0811A1, 0xF7537E82, 0xBD3AF235, 0x2AD7D2BB, 0xEB86D391]

/-- `f` of round `i` (R175). -/
def md5F (i : Nat) (b c d : Word) : Word :=
  if i ≤ 15 then (b &&& c) ||| (~~~b &&& d)
  else if i ≤ 31 then (d &&& b) ||| (~~~d &&& c)
  else if i ≤ 47 then b ^^^ c ^^^ d
  else c ^^^ (b ||| ~~~d)

/-- `g` of round `i`: which message word it takes (R175). -/
def md5G (i : Nat) : Nat :=
  if i ≤ 15 then i
  else if i ≤ 31 then (5 * i + 1) % 16
  else if i ≤ 47 then (3 * i + 5) % 16
  else (7 * i) % 16

/-- Round `i` over the message words `x` (R175). -/
def md5Round (x : List Word) (h : Md5State) (i : Nat) : Md5State :=
  let f := md5F i h.b h.c h.d + h.a + BitVec.ofNat 32 (md5T.getD i 0) + x.getD (md5G i) 0#32
  { a := h.d, b := h.b + f.rotateLeft (md5Shift i), c := h.b, d := h.c }

/-- One chunk into the chaining value (R175). -/
def md5Chunk (h : Md5State) (chunk : Bytes) : Md5State :=
  let x := (pieces 4 chunk).map fun q => BitVec.ofNat 32 (bytesToNatLE q)
  let r := (List.range 64).foldl (md5Round x) h
  { a := h.a + r.a, b := h.b + r.b, c := h.c + r.c, d := h.d + r.d }

/-- `Hash[MD5](m)` (R175): 16 bytes. -/
def md5 (m : Bytes) : Bytes :=
  let h := (pieces 64 (m ++ hashPadding m.length ++ le64 (8 * m.length))).foldl md5Chunk md5Init
  le32 h.a.toNat ++ le32 h.b.toNat ++ le32 h.c.toNat ++ le32 h.d.toNat

/-! ### The registry of hashes -/

/-- `Hash[h](m)` (R171). -/
def hash : HashAlg → Bytes → Bytes
  | .sha1, m => sha1 m
  | .md5, m => md5 m

/-- `B_h`, bytes (R170). -/
def hashBlockSize : HashAlg → Nat
  | .sha1 => 64
  | .md5 => 64

/-- `L_h`, bytes (R170). -/
def hashOutputSize : HashAlg → Nat
  | .sha1 => 20
  | .md5 => 16

end Sys2Proof.Machine
end

