-- ==== Sys2Proof/Machine/Hmac.lean ====
section
/-! DEFINITION. The HMAC unit (42_hmac.md R101) and its commands (R102). -/

namespace Sys2Proof.Machine

/-- `k0` of R101: the key, hashed first if longer than the hash block, padded with zeros to the block. -/
def hmacKey (h : HashAlg) (key : Bytes) : Bytes :=
  let k := if hashBlockSize h < key.length then hash h key else key
  k ++ zeros (hashBlockSize h - k.length)

/-- `HMAC[h](key, msg)` (R101). -/
def hmac (h : HashAlg) (key msg : Bytes) : Bytes :=
  let k0 := hmacKey h key
  let inner := hash h (k0.map (fun b => b ^^^ 0x36#8) ++ msg)
  hash h (k0.map (fun b => b ^^^ 0x5c#8) ++ inner)

/-- `HMAC` with hash `h` (R102). Key-using. -/
def hmacCommand (h : HashAlg) (keep : Bool) (s : State) : Result :=
  if s.badHmac then .next (raiseError .invalidParameter (!keep) s)
  else .next (publishKeyed keep (hmac h s.key.valid s.msg.valid) s)

/-- `HMAC.SHA1` (R102). -/
def execHmacSha1 (keep : Bool) (s : State) : Result := hmacCommand .sha1 keep s

/-- `HMAC.MD5` (R102). -/
def execHmacMd5 (keep : Bool) (s : State) : Result := hmacCommand .md5 keep s

end Sys2Proof.Machine
end

