-- ==== Sys2Proof/Machine/Housekeeping.lean ====
section
/-! DEFINITION. The housekeeping commands (40_housekeeping.md R80 to R84). None is key-using, so `KEEP` has no effect
(30_encoding.md R65). -/

namespace Sys2Proof.Machine

/-- `NOP` (R80): `O <- empty`. -/
def execNop (_keep : Bool) (s : State) : Result := .next (publish [] s)

/-- `ZEROIZE` (R81): every operand and parameter erased; `ERRLOG` kept. -/
def execZeroize (_keep : Bool) (s : State) : Result :=
  .next { s with
    key := Operand.empty, aux := Operand.empty, msg := Operand.empty, out := Operand.empty,
    reqlen := 0#32, nbits := 0#32, iter := 0#32, status := statusDone false }

/-- `OUT2KEY` (R82): `O` moved to `K`. -/
def execOut2key (_keep : Bool) (s : State) : Result :=
  if s.outOver || s.outExceeds s.cfg.keyCap then .next (raiseError .invalidParameter false s)
  else .next (publish [] { s with key := Operand.ofBytes s.out.valid })

/-- `OUT2AUX` (R83): `O` moved to `A`. -/
def execOut2aux (_keep : Bool) (s : State) : Result :=
  if s.outOver || s.outExceeds s.cfg.auxCap then .next (raiseError .invalidParameter false s)
  else .next (publish [] { s with aux := Operand.ofBytes s.out.valid })

/-- `OUT2MSG` (R84): `O` moved to `M`. -/
def execOut2msg (_keep : Bool) (s : State) : Result :=
  if s.outOver || s.outExceeds s.cfg.msgCap then .next (raiseError .invalidParameter false s)
  else .next (publish [] { s with msg := Operand.ofBytes s.out.valid })

end Sys2Proof.Machine
end

