-- ==== Sys2Proof/Machine/Nfold.lean ====
section
/-! DEFINITION. The n-fold unit (41_nfold.md R91, R92) and its command (R93). -/

namespace Sys2Proof.Machine

/-- `rot(in, r)`: the big-endian bit string rotated right by `r mod 8m` bits (R91). -/
def nfoldRot (b : Bytes) (r : Nat) : Bytes :=
  let bits := 8 * b.length
  let v := bytesToNat b
  natToBytes b.length ((v >>> (r % bits)) ||| ((v <<< (bits - r % bits)) % 2 ^ bits))

/-- `ocadd(a, b)` of two `n`-byte strings: addition with end-around carry (R92). The loop of R92 runs at most once. -/
def ocadd (n : Nat) (a b : Bytes) : Bytes :=
  let s := bytesToNat a + bytesToNat b
  natToBytes n (if 2 ^ (8 * n) ≤ s then s % 2 ^ (8 * n) + s / 2 ^ (8 * n) else s)

/-- `big` of R91: the copies of the input, copy `i` rotated right by `13 * i` bits, `lcm(m, n)` bytes in all. -/
def nfoldCopies (b : Bytes) (n : Nat) : Bytes :=
  (List.range (Nat.lcm b.length n / b.length)).flatMap fun i => nfoldRot b (13 * i)

/-- `nfold(in, n)` (R91). -/
def nfold (b : Bytes) (n : Nat) : Bytes := (pieces n (nfoldCopies b n)).foldl (ocadd n) (zeros n)

/-- `NFOLD` (R93): `M` folded to `NBITS` bits. Not key-using. -/
def execNfold (_keep : Bool) (s : State) : Result :=
  if s.badNfold then .next (raiseError .invalidParameter false s)
  else .next (publish (nfold s.msg.valid (s.nbits.toNat / 8)) s)

end Sys2Proof.Machine
end

