-- ==== Sys2Proof/Machine/Kdf.lean ====
section
/-! DEFINITION. The key-derivation unit (44_kdf.md): the functions `DR` (R121, R122) and random-to-key (R123, R127, R128),
and the commands `DR` (R124), `DK` (R125), `R2K` (R126). -/

namespace Sys2Proof.Machine

/-- `n` iterations of the simplified profile: each block is the encryption of the one before (R121). -/
def drChain (enc : Bytes → Bytes) : Nat → Bytes → Bytes
  | 0, _ => []
  | n + 1, ki => enc ki ++ drChain enc n (enc ki)

/-- The first plaintext of the simplified profile: the constant, folded unless it is one block long (R121). -/
def drStart (c : Cipher) (const : Bytes) : Bytes :=
  if const.length ≠ cipherBlockSize c then nfold const (cipherBlockSize c) else const

/-- `DR_S[c](key, const)` (R121). -/
def drSimplified (cores : Cores) (c : Cipher) (key const : Bytes) : Bytes :=
  (drChain (encBlock cores c key) (ceilDiv (cipherKeyInputSize c) (cipherBlockSize c)) (drStart c const)).take
    (cipherKeyInputSize c)

/-- The CMAC input number `i` of the formatted profile, after the block `prev` (R122). -/
def drInput (c : Cipher) (const prev : Bytes) (i : Nat) : Bytes :=
  prev ++ be32 i ++ const ++ [0x00#8] ++ be32 (8 * cipherKeyInputSize c)

/-- `n` iterations of the formatted profile from counter `i` and block `prev` (R122). -/
def drFeedback (mac : Bytes → Bytes) (c : Cipher) (const : Bytes) : Nat → Nat → Bytes → Bytes
  | 0, _, _ => []
  | n + 1, i, prev =>
    mac (drInput c const prev i) ++ drFeedback mac c const n (i + 1) (mac (drInput c const prev i))

/-- `DR_F[c](key, const)` (R122). -/
def drFormatted (cores : Cores) (c : Cipher) (key const : Bytes) : Bytes :=
  (drFeedback (cmac cores c key) c const (ceilDiv (cipherKeyInputSize c) 16) 1 (zeros 16)).take (cipherKeyInputSize c)

/-- `DR` in the profile of the cipher (R120, R124). -/
def deriveRandom (cores : Cores) (c : Cipher) (key const : Bytes) : Bytes :=
  if cipherFormatted c then drFormatted cores c key const else drSimplified cores c key const

/-- `WEAK`: the weak and semi-weak DES keys (R128). -/
def weakKeys : List Bytes :=
  [natToBytes 8 0x0101010101010101, natToBytes 8 0xfefefefefefefefe,
   natToBytes 8 0x1f1f1f1f0e0e0e0e, natToBytes 8 0xe0e0e0e0f1f1f1f1] ++
  [natToBytes 8 0x01fe01fe01fe01fe, natToBytes 8 0xfe01fe01fe01fe01,
   natToBytes 8 0x1fe01fe00ef10ef1, natToBytes 8 0xe01fe01ff10ef10e] ++
  [natToBytes 8 0x01e001e001f101f1, natToBytes 8 0xe001e001f101f101,
   natToBytes 8 0x1ffe1ffe0efe0efe, natToBytes 8 0xfe1ffe1ffe0efe0e] ++
  [natToBytes 8 0x011f011f010e010e, natToBytes 8 0x1f011f010e010e01,
   natToBytes 8 0xe0fee0fef1fef1fe, natToBytes 8 0xfee0fee0fef1fef1]

/-- The number of 1 bits among bits 7 to 1 of a byte (R127). -/
def onesAboveParity (b : Byte) : Nat := ((List.range 7).map fun i => (b.getLsbD (i + 1)).toNat).sum

/-- The byte with its bit 0 set so that the count of 1 bits is odd (R127). -/
def oddParity (b : Byte) : Byte := (b &&& 0xFE#8) ||| (if onesAboveParity b % 2 = 0 then 1#8 else 0#8)

/-- `k[7]` of R127 before parity: the low bit of `s[i]` at bit `i + 1`. -/
def gatherLowBits (s : Bytes) : Byte :=
  (List.range 7).foldl (fun acc i => acc ||| ((s.getD i 0#8 &&& 1#8) <<< (i + 1))) 0#8

/-- The 56-to-64-bit expansion with parity, before the weak-key fix (R127). -/
def expandThird (s : Bytes) : Bytes := (s.map (fun b => b &&& 0xFE#8) ++ [gatherLowBits s]).map oddParity

/-- The weak-key fix (R127): `0xF0` into the last byte of a key in `WEAK`. -/
def fixWeak (k : Bytes) : Bytes := if k ∈ weakKeys then k.set 7 (k.getD 7 0#8 ^^^ 0xF0#8) else k

/-- `third(s)` (R127). -/
def third (s : Bytes) : Bytes := fixWeak (expandThird s)

/-- `R2K[c](r)` (R123). -/
def randomToKey : Cipher → Bytes → Bytes
  | .des3, r => third (r.take 7) ++ third ((r.drop 7).take 7) ++ third ((r.drop 14).take 7)
  | .aes128, r => r
  | .aes256, r => r
  | .cam128, r => r
  | .cam256, r => r

/-- `DK(base_key, constant) = random2Key(DR(base_key, constant))` (R120, R125). -/
def deriveKey (cores : Cores) (c : Cipher) (key const : Bytes) : Bytes :=
  randomToKey c (deriveRandom cores c key const)

/-- `DR` with cipher `c` (R124). Key-using. -/
def drCommand (c : Cipher) (keep : Bool) (s : State) : Result :=
  if s.badDerive (cipherKeySize c) then .next (raiseError .invalidParameter (!keep) s)
  else .next (publishKeyed keep (deriveRandom s.cfg.cores c s.key.valid s.aux.valid) s)

/-- `DK` with cipher `c` (R125). Key-using. -/
def dkCommand (c : Cipher) (keep : Bool) (s : State) : Result :=
  if s.badDerive (cipherKeySize c) then .next (raiseError .invalidParameter (!keep) s)
  else .next (publishKeyed keep (deriveKey s.cfg.cores c s.key.valid s.aux.valid) s)

/-- `R2K` with cipher `c` (R126). Key-using. -/
def r2kCommand (c : Cipher) (keep : Bool) (s : State) : Result :=
  if s.badRandomToKey (cipherKeyInputSize c) then .next (raiseError .invalidParameter (!keep) s)
  else .next (publishKeyed keep (randomToKey c s.key.valid) s)

/-- `DR.DES3` (R124). -/
def execDrDes3 (keep : Bool) (s : State) : Result := drCommand .des3 keep s

/-- `DR.AES128` (R124). -/
def execDrAes128 (keep : Bool) (s : State) : Result := drCommand .aes128 keep s

/-- `DR.AES256` (R124). -/
def execDrAes256 (keep : Bool) (s : State) : Result := drCommand .aes256 keep s

/-- `DR.CAM128` (R124). -/
def execDrCam128 (keep : Bool) (s : State) : Result := drCommand .cam128 keep s

/-- `DR.CAM256` (R124). -/
def execDrCam256 (keep : Bool) (s : State) : Result := drCommand .cam256 keep s

/-- `DK.DES3` (R125). -/
def execDkDes3 (keep : Bool) (s : State) : Result := dkCommand .des3 keep s

/-- `DK.AES128` (R125). -/
def execDkAes128 (keep : Bool) (s : State) : Result := dkCommand .aes128 keep s

/-- `DK.AES256` (R125). -/
def execDkAes256 (keep : Bool) (s : State) : Result := dkCommand .aes256 keep s

/-- `DK.CAM128` (R125). -/
def execDkCam128 (keep : Bool) (s : State) : Result := dkCommand .cam128 keep s

/-- `DK.CAM256` (R125). -/
def execDkCam256 (keep : Bool) (s : State) : Result := dkCommand .cam256 keep s

/-- `R2K.DES3` (R126). -/
def execR2kDes3 (keep : Bool) (s : State) : Result := r2kCommand .des3 keep s

/-- `R2K.AES128` (R126). -/
def execR2kAes128 (keep : Bool) (s : State) : Result := r2kCommand .aes128 keep s

/-- `R2K.AES256` (R126). -/
def execR2kAes256 (keep : Bool) (s : State) : Result := r2kCommand .aes256 keep s

/-- `R2K.CAM128` (R126). -/
def execR2kCam128 (keep : Bool) (s : State) : Result := r2kCommand .cam128 keep s

/-- `R2K.CAM256` (R126). -/
def execR2kCam256 (keep : Bool) (s : State) : Result := r2kCommand .cam256 keep s

end Sys2Proof.Machine
end

