-- ==== Sys2Proof/Machine/Pbkdf2.lean ====
section
/-! DEFINITION. The PBKDF2 unit (45_pbkdf2.md R141) and its command (R142). -/

namespace Sys2Proof.Machine

/-- `n` further turns of the inner loop of R141 from `U` and `T`. -/
def pbkdf2Turns (prf : Bytes → Bytes) : Nat → Bytes → Bytes → Bytes
  | 0, _, t => t
  | n + 1, u, t => pbkdf2Turns prf n (prf u) (xorBytes t (prf u))

/-- Block `i` (from 1) of R141: the exclusive-or of `U_1` to `U_c`. -/
def pbkdf2Block (prf : Bytes → Bytes) (salt : Bytes) (c i : Nat) : Bytes :=
  pbkdf2Turns prf (c - 1) (prf (salt ++ be32 i)) (prf (salt ++ be32 i))

/-- `PBKDF2(P, S, c, dkLen)` with the PRF `HMAC[SHA1]` (R141). -/
def pbkdf2 (password salt : Bytes) (c dkLen : Nat) : Bytes :=
  ((List.range (ceilDiv dkLen 20)).flatMap fun i => pbkdf2Block (hmac .sha1 password) salt c (i + 1)).take dkLen

/-- `PBKDF2.SHA1` (R142). Key-using. -/
def execPbkdf2Sha1 (keep : Bool) (s : State) : Result :=
  if s.badPbkdf2 then .next (raiseError .invalidParameter (!keep) s)
  else .next (publishKeyed keep (pbkdf2 s.key.valid s.aux.valid s.iter.toNat s.reqlen.toNat) s)

end Sys2Proof.Machine
end

