-- ==== Sys2Proof/Machine/Dispatch.lean ====
section
/-! DEFINITION. The meaning of every command (30_encoding.md R60): one arm per constructor, each one direct call. -/

namespace Sys2Proof.Machine

def exec (i : Instr) (s : State) : Host.Outcome State Fault Refusal :=
  match i with
  | .nop keep => Sys2Proof.Machine.execNop keep s
  | .zeroize keep => Sys2Proof.Machine.execZeroize keep s
  | .out2key keep => Sys2Proof.Machine.execOut2key keep s
  | .out2aux keep => Sys2Proof.Machine.execOut2aux keep s
  | .out2msg keep => Sys2Proof.Machine.execOut2msg keep s
  | .trunc keep => Sys2Proof.Machine.execTrunc keep s
  | .nfold keep => Sys2Proof.Machine.execNfold keep s
  | .hmacSha1 keep => Sys2Proof.Machine.execHmacSha1 keep s
  | .hmacMd5 keep => Sys2Proof.Machine.execHmacMd5 keep s
  | .cmacAes128 keep => Sys2Proof.Machine.execCmacAes128 keep s
  | .cmacAes256 keep => Sys2Proof.Machine.execCmacAes256 keep s
  | .cmacCam128 keep => Sys2Proof.Machine.execCmacCam128 keep s
  | .cmacCam256 keep => Sys2Proof.Machine.execCmacCam256 keep s
  | .drDes3 keep => Sys2Proof.Machine.execDrDes3 keep s
  | .drAes128 keep => Sys2Proof.Machine.execDrAes128 keep s
  | .drAes256 keep => Sys2Proof.Machine.execDrAes256 keep s
  | .drCam128 keep => Sys2Proof.Machine.execDrCam128 keep s
  | .drCam256 keep => Sys2Proof.Machine.execDrCam256 keep s
  | .dkDes3 keep => Sys2Proof.Machine.execDkDes3 keep s
  | .dkAes128 keep => Sys2Proof.Machine.execDkAes128 keep s
  | .dkAes256 keep => Sys2Proof.Machine.execDkAes256 keep s
  | .dkCam128 keep => Sys2Proof.Machine.execDkCam128 keep s
  | .dkCam256 keep => Sys2Proof.Machine.execDkCam256 keep s
  | .r2kDes3 keep => Sys2Proof.Machine.execR2kDes3 keep s
  | .r2kAes128 keep => Sys2Proof.Machine.execR2kAes128 keep s
  | .r2kAes256 keep => Sys2Proof.Machine.execR2kAes256 keep s
  | .r2kCam128 keep => Sys2Proof.Machine.execR2kCam128 keep s
  | .r2kCam256 keep => Sys2Proof.Machine.execR2kCam256 keep s
  | .pbkdf2Sha1 keep => Sys2Proof.Machine.execPbkdf2Sha1 keep s
  | .conf keep => Sys2Proof.Machine.execConf keep s
  | .maccmp keep => Sys2Proof.Machine.execMaccmp keep s

end Sys2Proof.Machine
end

