-- ==== Sys2Proof/Machine/Bus.lean ====
section
/-! DEFINITION. The bus window (20_memory.md R40 to R48): regions, legal widths, reads and writes, the start of a command by
a write to `CMD` (30_encoding.md R60), the busy protocol (70_reset_and_hazards.md R266) and the reset input (R260). -/

namespace Sys2Proof.Machine

/-- The size of the window in bytes (R21, R40). -/
def windowSize : Nat := 0x20000

/-- The regions of the window (R40), with the place inside. -/
inductive Region where
  /-- The control registers, at this offset. -/
  | control (offset : Nat)
  /-- Byte `i` of the `K` window. -/
  | key (i : Nat)
  /-- Byte `i` of the `A` window. -/
  | aux (i : Nat)
  /-- Byte `i` of the `O` window. -/
  | out (i : Nat)
  /-- Byte `i` of the `M` window. -/
  | msg (i : Nat)
  /-- A reserved range that ends before offset `stop`. -/
  | reserved (stop : Nat)
deriving DecidableEq, Repr

/-- The region of an offset of the window (R40). -/
def region (off : Nat) : Region :=
  if off < 0x100 then .control off
  else if off < 0x1000 then .reserved 0x1000
  else if off < 0x2000 then .key (off - 0x1000)
  else if off < 0x3000 then .aux (off - 0x2000)
  else if off < 0x4000 then .out (off - 0x3000)
  else if off < 0x10000 then .reserved 0x10000
  else .msg (off - 0x10000)

/-- Whether an access of `width` bytes at this offset has a legal width and alignment (R42, R43, R44). In a reserved
range R44 forbids no width; the access stays inside the range (log 8). -/
def legalAccess (off width : Nat) : Bool :=
  match region off with
  | .control o => decide (width = 4) && decide (o % 4 = 0)
  | .key _ => decide (width = 1)
  | .aux _ => decide (width = 1)
  | .out _ => decide (width = 1)
  | .msg _ => decide (width = 1)
  | .reserved stop => decide (1 ≤ width) && decide (off + width ≤ stop)

/-- The control register at an offset; `none` at a reserved one (R15). -/
def regAt (off : Nat) : Option Reg :=
  if off = 0x00 then some .id
  else if off = 0x04 then some .cmd
  else if off = 0x08 then some .status
  else if off = 0x0C then some .errlog
  else if off = 0x10 then some .keylen
  else if off = 0x14 then some .auxlen
  else if off = 0x18 then some .msglen
  else if off = 0x1C then some .outlen
  else if off = 0x20 then some .reqlen
  else if off = 0x24 then some .nbits
  else if off = 0x28 then some .iter
  else none

/-- The offset of a control register (R15). -/
def regOffset : Reg → Nat
  | .id => 0x00
  | .cmd => 0x04
  | .status => 0x08
  | .errlog => 0x0C
  | .keylen => 0x10
  | .auxlen => 0x14
  | .msglen => 0x18
  | .outlen => 0x1C
  | .reqlen => 0x20
  | .nbits => 0x24
  | .iter => 0x28

/-- The constant of `ID` (R15, R23). -/
def idValue : Word := 0x4B480007#32

/-- What a read of a control register returns (R15, R16, R17, R42). `CMD` reads 0; reserved bits read 0. -/
def readReg (s : State) : Reg → Word
  | .id => idValue
  | .cmd => 0#32
  | .status => s.status &&& statusMask
  | .errlog => s.errlog &&& errlogMask
  | .keylen => s.key.len
  | .auxlen => s.aux.len
  | .msglen => s.msg.len
  | .outlen => s.out.len
  | .reqlen => s.reqlen
  | .nbits => s.nbits
  | .iter => s.iter

/-- What a read of byte `i` of an operand window of capacity `cap` returns; 0 at or beyond the capacity (R43, R45). -/
def readWindow (cap : Nat) (x : Operand) (i : Nat) : Word :=
  if i < cap then (Memory.read x.bytes i).setWidth 32 else 0#32

/-- What a legal read at an offset returns while `BUSY` = 0 (R42, R43, R45, R46). -/
def readAt (s : State) (off : Nat) : Word :=
  match region off with
  | .control o => (regAt o).elim 0#32 (readReg s)
  | .key _ => 0#32
  | .aux i => readWindow s.cfg.auxCap s.aux i
  | .out i => readWindow s.cfg.outCap s.out i
  | .msg i => readWindow s.cfg.msgCap s.msg i
  | .reserved _ => 0#32

/-- The operand register after a host write of byte `i`: ignored at or beyond the capacity; the length register is not
changed (R43, R45). -/
def writeWindow (cap : Nat) (x : Operand) (i : Nat) (b : Byte) : Operand :=
  if i < cap then { x with bytes := Memory.write x.bytes i b } else x

/-- A command word taken by the engine (R60): the command it decodes to runs, or the error decoding raises ends it
with the error epilogue (R66, R233). `BUSY` = 1 of step 1 is not seen: the command is one atomic step (log 17). -/
def startCommand (w : Word) (s : State) : Result :=
  match decode w with
  | .ok i => exec i s
  | .error e => .next (raiseError e (rejectionErasesKey e w) s)

/-- A write of `v` to a control register (R15, R48): `CMD` starts a command, which the entropy source answers as `source`
names (R151); `ERRLOG` clears bits; `ID`, `STATUS` and `OUTLEN` ignore it. -/
def writeReg (r : Reg) (v : Word) (source : Nat) (s : State) : Result :=
  match r with
  | .id => .next s
  | .cmd => startCommand v { s with source := source }
  | .status => .next s
  | .errlog => .next { s with errlog := clearLogged s.errlog v }
  | .keylen => .next { s with key := { s.key with len := v } }
  | .auxlen => .next { s with aux := { s.aux with len := v } }
  | .msglen => .next { s with msg := { s.msg with len := v } }
  | .outlen => .next s
  | .reqlen => .next { s with reqlen := v }
  | .nbits => .next { s with nbits := v }
  | .iter => .next { s with iter := v }

/-- A legal write of `v` at an offset while `BUSY` = 0 (R42, R43, R45, R47). An 8-bit access carries the low byte of
`v` (log 11). -/
def writeAt (off : Nat) (v : Word) (source : Nat) (s : State) : Result :=
  match region off with
  | .control o =>
    match regAt o with
    | some r => writeReg r v source s
    | none => .next s
  | .key i => .next { s with key := writeWindow s.cfg.keyCap s.key i (v.setWidth 8) }
  | .aux i => .next { s with aux := writeWindow s.cfg.auxCap s.aux i (v.setWidth 8) }
  | .out _ => .next s
  | .msg i => .next { s with msg := writeWindow s.cfg.msgCap s.msg i (v.setWidth 8) }
  | .reserved _ => .next s

/-- The state after a read has returned `v` to the host: a read has no other effect (R48; log 2). -/
def reply (v : Word) (s : State) : State := { s with replies := s.replies ++ [v] }

/-- The mask of the values that a read of `width` bytes can return (log 11). -/
def widthMask (width : Nat) : Word := BitVec.ofNat 32 (2 ^ (8 * min width 4) - 1)

/-- A legal read while `BUSY` = 1 (R266): `STATUS` shows `BUSY` alone; anything else returns an unspecified value, a
free value (log 7). -/
def readBusy (off width : Nat) (s : State) : State :=
  if off = 0x08 then reply statusBusy s
  else { reply (Config.busyRead s.fresh &&& widthMask width) s with fresh := s.fresh + 1 }

/-- A legal read (R42, R43, R266). -/
def performRead (off width : Nat) (s : State) : Result :=
  if s.busy then .next (readBusy off width s) else .next (reply (readAt s off) s)

/-- A legal write: ignored while `BUSY` = 1 (R266; log 7). -/
def performWrite (off : Nat) (v : Word) (source : Nat) (s : State) : Result :=
  if s.busy then .next s else writeAt off v source s

/-- The reset input (R260): every piece of architectural state at its reset value. The parameters stay, and so do the
host's pending actions, the replies it has had, and the two fields behind the free values (R261; log 14). -/
def performReset (s : State) : State :=
  { State.resetWith s.cfg with bus := s.bus, replies := s.replies, source := s.source, fresh := s.fresh }

/-- An access of `width` bytes at bus address `addr`, with what `act` does at its offset: outside the window it is not
addressed to the engine (R40; log 9), of illegal width or alignment it is refused (R44, R242; log 10). -/
def atOffset (addr width : Nat) (act : Nat → State → Result) (s : State) : Result :=
  if addr < s.cfg.base ∨ s.cfg.base + windowSize ≤ addr then .fault (.outsideWindow addr)
  else if legalAccess (addr - s.cfg.base) width then act (addr - s.cfg.base) s
  else .refused (.illegalAccess (addr - s.cfg.base) width)

/-- One host action, from the state in which it is no longer pending (R51). -/
def perform (a : HostAction) (s : State) : Result :=
  match a with
  | .read addr width => atOffset addr width (fun off => performRead off width) s
  | .write addr width v source => atOffset addr width (fun off => performWrite off v source) s
  | .reset => .next (performReset s)

/-- The host action that writes the command word `w` to `CMD` of an engine of parameters `c` (R60), while the entropy
source answers as `source` names. -/
def commandWrite (c : Config) (w : Word) (source : Nat) : HostAction := .write (c.base + 0x04) 4 w source

/-- `STATUS` with `BUSY` cleared. -/
def clearBusy (status : Word) : Word := status &&& ~~~1#32

end Sys2Proof.Machine
end

