-- ==== Sys2Proof/Machine/Step.lean ====
section
/-! DEFINITION. One step of the engine: the oldest pending host action takes effect completely (20_memory.md R51); with none
pending the engine waits (10_state.md R14). And where `step` takes its next command from. -/

namespace Sys2Proof.Machine

/-- One step (R14, R51, R60; log 1). -/
def step (s : State) : Host.Outcome State Fault Refusal :=
  match s.bus with
  | [] => .next s
  | a :: rest => perform a { s with bus := rest }

/-- `s` with the host's write of the command word `w` (of `nbits` bits) to `CMD` as its next action, and the engine ready
to take it (R60: `STATUS.BUSY` = 0). This stands for the host that issues the command (log 1); the entropy source answers
as it did before (log 6). -/
def State.withFetchWord (s : State) (nbits w : Nat) : State :=
  { s with
    bus := commandWrite s.cfg (BitVec.ofNat 32 (w % 2 ^ nbits)) s.source :: s.bus
    status := clearBusy s.status }

end Sys2Proof.Machine
end

