-- ==== Sys2Proof/Machine/Rc4.lean ====
section
/-! DEFINITION. RC4 (48_providers.md R179). No command uses it; the host sequence of 49_profile_sequences.md R214 does. -/

namespace Sys2Proof.Machine

/-- The permutation `S` with entries `i` and `j` exchanged (R179). -/
def rc4Swap (s : List Byte) (i j : Nat) : List Byte := (s.set i (s.getD j 0#8)).set j (s.getD i 0#8)

/-- One turn of the key scheduling loop (R179). -/
def rc4Mix (key : Bytes) (sj : List Byte × Nat) (i : Nat) : List Byte × Nat :=
  let j := (sj.2 + (sj.1.getD i 0#8).toNat + (key.getD (i % key.length) 0#8).toNat) % 256
  (rc4Swap sj.1 i j, j)

/-- `S` after key scheduling (R179). -/
def rc4Schedule (key : Bytes) : List Byte :=
  ((List.range 256).foldl (rc4Mix key) ((List.range 256).map (BitVec.ofNat 8), 0)).1

/-- The output loop (R179). -/
def rc4Stream (s : List Byte) (i j : Nat) : Bytes → Bytes
  | [] => []
  | x :: rest =>
    let i' := (i + 1) % 256
    let j' := (j + (s.getD i' 0#8).toNat) % 256
    let s' := rc4Swap s i' j'
    (x ^^^ s'.getD (((s'.getD i' 0#8).toNat + (s'.getD j' 0#8).toNat) % 256) 0#8) :: rc4Stream s' i' j' rest

/-- `RC4(key, data)` (R179). -/
def rc4 (key data : Bytes) : Bytes := rc4Stream (rc4Schedule key) 0 0 data

end Sys2Proof.Machine
end

