-- ==== Sys2Proof/Machine/Sequences.lean ====
section
/-! DEFINITION. The host side that the spec keeps beside the engine: the data values of the profile (49_profile_sequences.md
R200 to R204, R210, R211, R214), the host's pseudo-operations (30_encoding.md R71), a host that works through a program of them
against the engine, and the sequences of commands (R205 to R215), each such a program. Nothing here adds state or commands
to the engine (log 19). -/

namespace Sys2Proof.Machine

/-! ### Data of the profile -/

/-- The encryption types the document numbers (R200). -/
inductive EncryptionType where
  | none
  | desCbcCrc
  | des3CbcSha1
  | aes128CtsHmacSha1
  | aes256CtsHmacSha1
  | arcfourHmac
  | camellia128CtsCmac
  | camellia256CtsCmac
deriving DecidableEq, Repr

/-- The number of an encryption type (R200). -/
def encTypeNumber : EncryptionType → Nat
  | .none => 0
  | .desCbcCrc => 1
  | .des3CbcSha1 => 16
  | .aes128CtsHmacSha1 => 17
  | .aes256CtsHmacSha1 => 18
  | .arcfourHmac => 23
  | .camellia128CtsCmac => 25
  | .camellia256CtsCmac => 26

/-- The engine's cipher for an encryption type, where it has one (R200). -/
def encTypeCipher (e : EncryptionType) : Option Cipher := Cipher.ofNumber (BitVec.ofNat 8 (encTypeNumber e))

/-- `confounderSize` (R203), bytes; `none` stands for the RC4-HMAC family. -/
def confounderSize : Option Cipher → Nat
  | some .des3 => 8
  | some _ => 16
  | none => 8

/-- Checksum `computeSize` (R203), bytes. -/
def checksumComputeSize : Option Cipher → Nat
  | some .des3 => 20
  | some .aes128 => 20
  | some .aes256 => 20
  | some .cam128 => 16
  | some .cam256 => 16
  | none => 16

/-- Checksum `outputSize` (R203), bytes. -/
def checksumOutputSize : Option Cipher → Nat
  | some .des3 => 20
  | some .aes128 => 12
  | some .aes256 => 12
  | some .cam128 => 16
  | some .cam256 => 16
  | none => 16

/-- `checksumSize` of the trailing integrity check (R209), bytes. R203 names it and gives it no value. DESIGN CHOICE (log 23,
unsafe): it is the checksum's `outputSize`. -/
def checksumSize (e : Option Cipher) : Nat := checksumOutputSize e

/-- `paddingSize` (R203), bytes. -/
def paddingSize : Option Cipher → Nat
  | some .des3 => 8
  | some _ => 0
  | none => 0

/-- The usage constant `be32(usage) ‖ suffix` (R204). -/
def usageConstant (usage : Nat) (suffix : Byte) : Bytes := be32 usage ++ [suffix]

/-- The suffix of the checksum key `Kc` (R204). -/
def suffixKc : Byte := 0x99#8

/-- The suffix of the encryption key `Ke` (R204). -/
def suffixKe : Byte := 0xAA#8

/-- The suffix of the integrity key `Ki` (R204). -/
def suffixKi : Byte := 0x55#8

/-- The constant `"kerberos"` of string-to-key (R212). -/
def kerberosConstant : Bytes := natToBytes 8 0x6b65726265726f73

/-- The AES salt `realm ‖ principal` (R210). -/
def aesSalt (realm principal : Bytes) : Bytes := realm ++ principal

/-- The pepper of the Camellia salts by key size in bytes: `"camellia128-cts-cmac"` or `"camellia256-cts-cmac"` (R210). -/
def camelliaPepper (keySize : Nat) : Bytes :=
  if keySize = 32 then natToBytes 20 0x63616d656c6c69613235362d6374732d636d6163
  else natToBytes 20 0x63616d656c6c69613132382d6374732d636d6163

/-- The Camellia salt in the order the document states (R210). -/
def camelliaSaltStated (c : Cipher) (realm principal : Bytes) : Bytes :=
  realm ++ principal ++ camelliaPepper (cipherKeySize c)

/-- The Camellia salt in the order that meets the published fixtures (R210, 90_conflicts.md C4). -/
def camelliaSaltFixture (c : Cipher) (realm principal : Bytes) : Bytes :=
  camelliaPepper (cipherKeySize c) ++ [0x00#8] ++ realm ++ principal

/-- The salt bytes of string-to-key by cipher: for AES and Camellia in the orders the document states (R210). It states none
for DES3. DESIGN CHOICE (log 24, unsafe): DES3 takes the AES order. -/
def statedSalt (c : Cipher) (realm principal : Bytes) : Bytes :=
  if cipherFormatted c then camelliaSaltStated c realm principal else aesSalt realm principal

/-- The iteration count of string-to-key for AES and Camellia (R211): the default when `params` is absent, its big-endian
value when it has 4 bytes; `none` where the host reports `InvalidParameter`. R211 gives none for DES3, whose sequence (R213)
takes no count. DESIGN CHOICE (log 25, unsafe): DES3 is answered as AES. -/
def iterationCount (c : Cipher) : Option Bytes → Option Nat
  | none => some (if cipherFormatted c then 32768 else 4096)
  | some params => if params.length = 4 then some (bytesToNat params) else none

/-- The remapped usage of RC4-HMAC (R214). -/
def rc4Usage (usage : Nat) : Nat := if usage = 3 ∨ usage = 9 then 8 else if usage = 23 then 13 else usage

/-- The RC4-HMAC salt: the remapped usage, little-endian (R214). -/
def rc4Salt (usage : Nat) : Bytes := le32 (rc4Usage usage)

/-! ### Pseudo-operations -/

/-- Byte writes of `b` from offset `off` on. They start no command, so the source that comes with them is never asked. -/
def writeBytes (c : Config) (off : Nat) : Bytes → List HostAction
  | [] => []
  | x :: rest => .write (c.base + off) 1 (x.setWidth 32) 0 :: writeBytes c (off + 1) rest

/-- `SET reg, v` (R71). -/
def setReg (c : Config) (r : Reg) (v : Nat) : List HostAction :=
  [.write (c.base + regOffset r) 4 (BitVec.ofNat 32 v) 0]

/-- `LDK b` (R71). -/
def ldk (c : Config) (b : Bytes) : List HostAction := writeBytes c 0x1000 b ++ setReg c .keylen b.length

/-- `LDA b` (R71). -/
def lda (c : Config) (b : Bytes) : List HostAction := writeBytes c 0x2000 b ++ setReg c .auxlen b.length

/-- `LDM b` (R71). -/
def ldm (c : Config) (b : Bytes) : List HostAction := writeBytes c 0x10000 b ++ setReg c .msglen b.length

/-- `RDS` (R71). -/
def rds (c : Config) : List HostAction := [.read (c.base + 0x08) 4]

/-- One item of a host program: a bus access, or one of the two pseudo-operations of R71 that go on as a read answers. -/
inductive HostOp where
  /-- One bus access. -/
  | access (a : HostAction)
  /-- Repeat `MemRead(BASE + 0x08, 4)` until bit 0 of the answer is 0: the second half of `CMD`. -/
  | poll
  /-- `RDO`: `n <- MemRead(BASE + 0x1C, 4)`, then `MemRead(BASE + 0x03000 + i, 1)` for `i < n`. -/
  | readOut
deriving DecidableEq, Repr

/-- Items that do not depend on any answer. -/
def accesses (as : List HostAction) : List HostOp := as.map HostOp.access

/-- `CMD` of a word (R71): the write, then the poll. -/
def cmdWord (c : Config) (w : Word) (source : Nat) : List HostOp := [.access (commandWrite c w source), .poll]

/-- `RDO` (R71). -/
def rdo : List HostOp := [.readOut]

/-- The reads of the first `n` bytes of `O`, which `RDO` makes. -/
def readsOfO (c : Config) (n : Nat) : List HostAction := (List.range n).map fun i => .read (c.base + 0x3000 + i) 1

/-! ### The host at work -/

/-- A host with the rest of its program, and the engine. The position in the program is the host's state (R14). -/
structure HostSystem where
  /-- What the host has still to do. -/
  todo : List HostOp
  /-- The engine it does it to. -/
  engine : State
deriving DecidableEq, Repr

/-- The host makes the access `a`, which the engine performs, and goes on with `next` of what the engine answered last. -/
def issue (a : HostAction) (next : Word → List HostOp) (s : State) : Host.Outcome HostSystem Fault Refusal :=
  match step { s with bus := a :: s.bus } with
  | .next t => .next { todo := next (t.replies.getLastD 0#32), engine := t }
  | .fault r => .fault r
  | .refused r => .refused r

/-- One access of the host (R71): `poll` stays until the answer has bit 0 clear; `readOut` reads `OUTLEN` and then that many
bytes of `O`. -/
def hostStep (h : HostSystem) : Host.Outcome HostSystem Fault Refusal :=
  match h.todo with
  | [] => .next h
  | .access a :: rest => issue a (fun _ => rest) h.engine
  | .poll :: rest =>
    issue (.read (h.engine.cfg.base + 0x08) 4) (fun v => if v.getLsbD 0 then .poll :: rest else rest) h.engine
  | .readOut :: rest =>
    issue (.read (h.engine.cfg.base + 0x1C) 4) (fun v => accesses (readsOfO h.engine.cfg v.toNat) ++ rest) h.engine

/-- `n` accesses of the host, or fewer where the engine stops the model. -/
def hostRun : Nat → HostSystem → Host.Outcome HostSystem Fault Refusal
  | 0, h => .next h
  | n + 1, h =>
    match hostStep h with
    | .next g => hostRun n g
    | .fault r => .fault r
    | .refused r => .refused r

/-! ### Sequences -/

/-- `CMD OP.cipher` with `KEEP`. Of all commands only `CONF` asks the entropy source; the source named here is never asked. -/
def cmdCipher (c : Config) (op : Op) (alg : Cipher) (keep : Bool) : List HostOp :=
  cmdWord c (commandWord op alg.number keep) 0

/-- `CMD` of an operation that takes no algorithm and draws nothing. -/
def cmdPlain (c : Config) (op : Op) : List HostOp := cmdWord c (commandWord op 0#8 false) 0

/-- `CMD HMAC.hash` with `KEEP`. -/
def cmdHmac (c : Config) (h : HashAlg) (keep : Bool) : List HostOp := cmdWord c (commandWord .hmac h.number keep) 0

/-- `CMD CONF`, answered by the entropy source as `source` names (R151; log 6). -/
def cmdConf (c : Config) (source : Nat) : List HostOp := cmdWord c (commandWord .conf 0#8 false) source

/-- `SUBKEY(alg, base_key, const)` (R205). -/
def subkeySeq (c : Config) (alg : Cipher) (baseKey const : Bytes) : List HostOp :=
  accesses (ldk c baseKey ++ lda c const) ++ cmdCipher c .dk alg false ++ cmdPlain c .out2key

/-- `KCSUM` up to and including `TRUNC` (R206). -/
def kcsumHead (c : Config) (alg : Cipher) (key : Bytes) (usage : Nat) (data : Bytes) (outlen : Nat) : List HostOp :=
  subkeySeq c alg key (usageConstant usage suffixKc) ++ accesses (ldm c data) ++ cmdHmac c .sha1 false ++
    accesses (setReg c .reqlen outlen) ++ cmdPlain c .trunc

/-- `KCSUM(alg, key, usage, data, outlen)` (R206). -/
def kcsumSeq (c : Config) (alg : Cipher) (key : Bytes) (usage : Nat) (data : Bytes) (outlen : Nat) : List HostOp :=
  kcsumHead c alg key usage data outlen ++ rdo

/-- The tail of a verification (R207): the received bytes against the computed ones. -/
def verifyTail (c : Config) (received : Bytes) : List HostOp :=
  accesses (lda c received) ++ cmdPlain c .maccmp ++ accesses (rds c)

/-- `KVERIFY(alg, key, usage, data, received)` (R207). -/
def kverifySeq (c : Config) (alg : Cipher) (key : Bytes) (usage : Nat) (data received : Bytes) : List HostOp :=
  kcsumHead c alg key usage data (checksumOutputSize (some alg)) ++ verifyTail c received

/-- `CCSUM(alg, key, usage, data)` (R208, 90_conflicts.md C1). -/
def ccsumSeq (c : Config) (alg : Cipher) (key : Bytes) (usage : Nat) (data : Bytes) : List HostOp :=
  subkeySeq c alg key (usageConstant usage suffixKc) ++ accesses (ldm c data) ++ cmdCipher c .cmac alg false ++ rdo

/-- A fresh confounder of `n` bytes (R209, R214). -/
def confounderSeq (c : Config) (n source : Nat) : List HostOp :=
  accesses (setReg c .reqlen n) ++ cmdConf c source ++ rdo

/-- The encryption key `Ke`, read out for the external cipher core (R209). -/
def encryptionKeySeq (c : Config) (alg : Cipher) (baseKey : Bytes) (usage : Nat) : List HostOp :=
  accesses (ldk c baseKey ++ lda c (usageConstant usage suffixKe)) ++ cmdCipher c .dk alg false ++ rdo

/-- The integrity check of the framing under `Ki`, up to and including `TRUNC` (R209). -/
def integrityHead (c : Config) (alg : Cipher) (baseKey : Bytes) (usage : Nat) (covered : Bytes) (size : Nat) :
    List HostOp :=
  subkeySeq c alg baseKey (usageConstant usage suffixKi) ++ accesses (ldm c covered) ++
    (if cipherFormatted alg then cmdCipher c .cmac alg false else cmdHmac c .sha1 false) ++
    accesses (setReg c .reqlen size) ++ cmdPlain c .trunc

/-- The engine's part of `encrypt` (R209); `checksumSize` has the model's value (log 23). -/
def encryptSeq (c : Config) (alg : Cipher) (baseKey : Bytes) (usage : Nat) (covered : Bytes) (source : Nat) :
    List HostOp :=
  confounderSeq c (confounderSize (some alg)) source ++ encryptionKeySeq c alg baseKey usage ++
    integrityHead c alg baseKey usage covered (checksumSize (some alg)) ++ rdo

/-- The engine's part of `decrypt` (R209); `checksumSize` has the model's value (log 23). -/
def decryptSeq (c : Config) (alg : Cipher) (baseKey : Bytes) (usage : Nat) (covered trailing : Bytes) : List HostOp :=
  encryptionKeySeq c alg baseKey usage ++
    integrityHead c alg baseKey usage covered (checksumSize (some alg)) ++ verifyTail c trailing

/-- `S2K(alg, password, salt_bytes, iter)` (R212). -/
def s2kSeq (c : Config) (alg : Cipher) (password salt : Bytes) (iter : Nat) : List HostOp :=
  accesses (ldk c password ++ lda c salt ++ setReg c .iter iter ++ setReg c .reqlen (cipherKeyInputSize alg)) ++
    cmdWord c (commandWord .pbkdf2 HashAlg.sha1.number false) 0 ++ cmdPlain c .out2key ++
    accesses (lda c kerberosConstant) ++ cmdCipher c .dk alg false ++ rdo

/-- `S2K_DES3(password, salt_bytes)` (R213, 90_conflicts.md C2). -/
def s2kDes3Seq (c : Config) (password salt : Bytes) : List HostOp :=
  accesses (ldm c (password ++ salt) ++ setReg c .nbits 168) ++ cmdPlain c .nfold ++ cmdPlain c .out2key ++
    cmdCipher c .r2k .des3 false ++ cmdPlain c .out2key ++ accesses (lda c kerberosConstant) ++
    cmdCipher c .dk .des3 false ++ rdo

/-- The RC4-HMAC chain after the confounder has been read (R214): the checksum, then `K3`. -/
def rc4ChainSeq (c : Config) (baseKey : Bytes) (usage : Nat) (confounder plaintext : Bytes) : List HostOp :=
  accesses (ldk c baseKey ++ ldm c (rc4Salt usage)) ++ cmdHmac c .md5 false ++ cmdPlain c .out2key ++
    accesses (ldm c (confounder ++ plaintext)) ++ cmdHmac c .md5 true ++ rdo ++ cmdPlain c .out2msg ++
    cmdHmac c .md5 false ++ rdo

/-- The ciphertext of RC4-HMAC, which the host forms (R214). -/
def rc4Ciphertext (checksum k3 confounder plaintext : Bytes) : Bytes := checksum ++ rc4 k3 (confounder ++ plaintext)

/-- `"signaturekey" ‖ 0x00` (R215). -/
def signatureKey : Bytes := natToBytes 13 0x7369676e61747572656b657900

/-- The Ksign checksum (R215); the host computes the inner MD5. -/
def ksignSeq (c : Config) (key : Bytes) (usage : Nat) (data : Bytes) : List HostOp :=
  accesses (ldk c key ++ ldm c signatureKey) ++ cmdHmac c .md5 false ++ cmdPlain c .out2key ++
    accesses (ldm c (md5 (rc4Salt usage ++ data))) ++ cmdHmac c .md5 false ++ rdo

end Sys2Proof.Machine
end

