-- ==== Sys2Proof/Safety.lean ====
section
/-! DEFINITION. What counts as a safe state and a safe run, in the terms the claims use: the invariant of the engine, and the
accesses a host may make (20_memory.md R40, R44). -/

namespace Sys2Proof.Machine

/-- The bytes of an operand register are in canonical form and lie below its capacity (R11). -/
def Operand.fits (x : Operand) (cap : Nat) : Prop := Memory.wf x.bytes ∧ ∀ c ∈ x.bytes, c.1 < cap

/-- The values `STATUS` can have when no command is in progress (R16, R162, R233): after reset, after a command that
ended without error, after a match, after each of the four errors. -/
def legalStatus : List Word :=
  [0x00000000#32, 0x00000002#32, 0x0000000A#32, 0x00000106#32, 0x00000206#32, 0x00000306#32, 0x00000406#32]

/-- The invariant of the engine. -/
structure State.Inv (s : State) : Prop where
  /-- The parameters obey R5. -/
  cfg : s.cfg.wellFormed = true
  /-- `K` lies in its capacity, in canonical form. -/
  key : s.key.fits s.cfg.keyCap
  /-- `A` lies in its capacity, in canonical form. -/
  aux : s.aux.fits s.cfg.auxCap
  /-- `M` lies in its capacity, in canonical form. -/
  msg : s.msg.fits s.cfg.msgCap
  /-- `O` lies in its capacity, in canonical form. -/
  out : s.out.fits s.cfg.outCap
  /-- `OUTLEN` never exceeds `OUT_CAP` (R13, R236). -/
  outLen : s.out.len.toNat ≤ s.cfg.outCap
  /-- Every byte of `O` at or beyond `OUTLEN` is zero (R8: only the engine writes `O`). -/
  outTail : ∀ c ∈ s.out.bytes, c.1 < s.out.len.toNat
  /-- `STATUS` is one of the values a finished command leaves (R16). -/
  status : s.status ∈ legalStatus
  /-- Only bits 1 to 4 of `ERRLOG` are ever set (R17). -/
  errlog : s.errlog &&& ~~~errlogMask = 0#32

/-- The accesses that are addressed to the engine and have a legal width and alignment (R40, R44). -/
def HostAction.legal (c : Config) : HostAction → Bool
  | .read addr width =>
    decide (c.base ≤ addr) && decide (addr < c.base + windowSize) && legalAccess (addr - c.base) width
  | .write addr width _ _ =>
    decide (c.base ≤ addr) && decide (addr < c.base + windowSize) && legalAccess (addr - c.base) width
  | .reset => true

/-- Bit `p` of a byte string as a bit string: position 0 is bit 7 of byte 0, the first bit (R7, R91). -/
def bitAt (b : Bytes) (p : Nat) : Bool := (b.getD (p / 8) 0#8).getMsbD (p % 8)

/-- The number of 1 bits of a byte (R127). -/
def onesOf (b : Byte) : Nat := ((List.range 8).map fun i => (b.getLsbD i).toNat).sum

end Sys2Proof.Machine
end

