-- ==== Sys2Proof/Certificates/Slice0/Obligations.lean ====
section
/-! DEFINITION. The statements for the provers. Each is about the engine, not about a program; its docstring names the rule of
spec/ it comes from. -/

open Sys2Proof Sys2Proof.Machine

/-! ### Decoding and encoding -/

/-- R61, R66, R70: the decoder accepts exactly the words the encoder writes, each as the command it was written for. -/
def Obligations.DecodeAcceptsExactlyEncodedWords : Prop :=
  ∀ (w : Word) (i : Instr), decode w = .ok i ↔ w = encode i

/-- R61 to R64, R70: words written out field by field (reserved, `KEEP`, `ALG`, `OP`) decode to their commands. -/
def Obligations.DecodeReadsWrittenWords : Prop :=
  decode (0b000000000000000#15 ++ 0b0#1 ++ 0b00000000#8 ++ 0b00010000#8) = .ok (.nfold false) ∧
  decode (0b000000000000000#15 ++ 0b0#1 ++ 0b00000001#8 ++ 0b00100000#8) = .ok (.hmacMd5 false) ∧
  decode (0b000000000000000#15 ++ 0b0#1 ++ 0b00011001#8 ++ 0b00110000#8) = .ok (.cmacCam128 false) ∧
  decode (0b000000000000000#15 ++ 0b1#1 ++ 0b00010001#8 ++ 0b01000001#8) = .ok (.dkAes128 true) ∧
  decode (0b000000000000000#15 ++ 0b0#1 ++ 0b00000000#8 ++ 0b01010000#8) = .ok (.pbkdf2Sha1 false)

/-- R66, R67: which words end in which error, read off the fields of the word. -/
def Obligations.DecodeErrorsFollowTheFields : Prop :=
  ∀ w : Word,
    let op := w.toNat % 0x100
    let alg := w.toNat / 0x100 % 0x100
    let reserved := w.toNat / 0x20000
    (decode w = .error .illegalCommand ↔
      reserved ≠ 0 ∨
      op ∉ [0x00, 0x01, 0x02, 0x03, 0x04, 0x05, 0x10, 0x20, 0x30, 0x40, 0x41, 0x42, 0x50, 0x60, 0x70] ∨
      (op ∈ [0x00, 0x01, 0x02, 0x03, 0x04, 0x05, 0x10, 0x60, 0x70] ∧ alg ≠ 0)) ∧
    (decode w = .error .unsupportedAlgorithm ↔
      reserved = 0 ∧
      ((op = 0x20 ∧ alg ∉ [0, 1]) ∨ (op = 0x50 ∧ alg ≠ 0) ∨ (op = 0x30 ∧ alg ∉ [17, 18, 25, 26]) ∨
        (op ∈ [0x40, 0x41, 0x42] ∧ alg ∉ [16, 17, 18, 25, 26]))) ∧
    decode w ≠ .error .invalidParameter ∧ decode w ≠ .error .integrityFailure

/-! ### What each command does -/

/-- R80: `NOP` empties `O`, sets `STATUS` to done and changes nothing else, whatever `KEEP` is. -/
def Obligations.NopEmptiesTheResult : Prop :=
  decode 0x00000000#32 = .ok (.nop false) ∧ decode 0x00010000#32 = .ok (.nop true) ∧
  (∀ i, Memory.read Operand.empty.bytes i = 0#8) ∧ Operand.empty.len = 0#32 ∧
  ∀ (keep : Bool) (s : State),
    exec (.nop keep) s = .next { s with out := Operand.empty, status := 0x00000002#32 }

/-- R81: `ZEROIZE` erases every operand and parameter; the state is then that after reset but for `STATUS` and `ERRLOG`. -/
def Obligations.ZeroizeErasesEverything : Prop :=
  decode 0x00000001#32 = .ok (.zeroize false) ∧
  (∀ i, Memory.read Operand.empty.bytes i = 0#8) ∧ Operand.empty.len = 0#32 ∧
  ∀ (keep : Bool) (s : State),
    exec (.zeroize keep) s =
      .next { s with key := Operand.empty, aux := Operand.empty, msg := Operand.empty, out := Operand.empty,
                     reqlen := 0#32, nbits := 0#32, iter := 0#32, status := 0x00000002#32 } ∧
    exec (.zeroize keep) s =
      .next { State.resetWith s.cfg with status := 0x00000002#32, errlog := s.errlog,
                                         bus := s.bus, replies := s.replies, source := s.source, fresh := s.fresh }

/-- R82, R83, R84: a move puts the valid bytes of `O` into the destination, zeros after them, its length with them,
empties `O` and changes nothing else; a length above a capacity is `InvalidParameter`. -/
def Obligations.MovesTransferTheResult : Prop :=
  let raised (s : State) : Result :=
    .next { s with out := Operand.empty, errlog := s.errlog ||| 0x00000004#32, status := 0x00000206#32 }
  decode 0x00000002#32 = .ok (.out2key false) ∧ decode 0x00000003#32 = .ok (.out2aux false) ∧
  decode 0x00000004#32 = .ok (.out2msg false) ∧
  ∀ (keep : Bool) (s : State),
    (s.out.len.toNat ≤ s.cfg.outCap → s.out.len.toNat ≤ s.cfg.keyCap →
      ∃ x : Operand, x.len = s.out.len ∧
        (∀ i, Memory.read x.bytes i = if i < s.out.len.toNat then Memory.read s.out.bytes i else 0#8) ∧
        exec (.out2key keep) s = .next { s with key := x, out := Operand.empty, status := 0x00000002#32 }) ∧
    (s.cfg.outCap < s.out.len.toNat ∨ s.cfg.keyCap < s.out.len.toNat →
      exec (.out2key keep) s = raised s) ∧
    (s.out.len.toNat ≤ s.cfg.outCap → s.out.len.toNat ≤ s.cfg.auxCap →
      ∃ x : Operand, x.len = s.out.len ∧
        (∀ i, Memory.read x.bytes i = if i < s.out.len.toNat then Memory.read s.out.bytes i else 0#8) ∧
        exec (.out2aux keep) s = .next { s with aux := x, out := Operand.empty, status := 0x00000002#32 }) ∧
    (s.cfg.outCap < s.out.len.toNat ∨ s.cfg.auxCap < s.out.len.toNat →
      exec (.out2aux keep) s = raised s) ∧
    (s.out.len.toNat ≤ s.cfg.outCap → s.out.len.toNat ≤ s.cfg.msgCap →
      ∃ x : Operand, x.len = s.out.len ∧
        (∀ i, Memory.read x.bytes i = if i < s.out.len.toNat then Memory.read s.out.bytes i else 0#8) ∧
        exec (.out2msg keep) s = .next { s with msg := x, out := Operand.empty, status := 0x00000002#32 }) ∧
    (s.cfg.outCap < s.out.len.toNat ∨ s.cfg.msgCap < s.out.len.toNat →
      exec (.out2msg keep) s = raised s)

/-- R160: `TRUNC` keeps the leading `REQLEN` bytes of `O` and erases the rest; asking for more than `O` holds is
`InvalidParameter`; asking for what `O` holds changes nothing except the flags (on a state of the invariant, in which no
byte of `O` beyond its length is set). -/
def Obligations.TruncKeepsTheLeadingBytes : Prop :=
  decode 0x00000005#32 = .ok (.trunc false) ∧
  ∀ (keep : Bool) (s : State),
    (s.reqlen.toNat ≤ s.out.len.toNat →
      ∃ x : Operand, x.len = s.reqlen ∧
        (∀ i, Memory.read x.bytes i = if i < s.reqlen.toNat then Memory.read s.out.bytes i else 0#8) ∧
        exec (.trunc keep) s = .next { s with out := x, status := 0x00000002#32 }) ∧
    (s.out.len.toNat < s.reqlen.toNat →
      exec (.trunc keep) s =
        .next { s with out := Operand.empty, errlog := s.errlog ||| 0x00000004#32, status := 0x00000206#32 }) ∧
    (s.Inv → s.reqlen = s.out.len → exec (.trunc keep) s = .next { s with status := 0x00000002#32 })

/-- R93: `NFOLD` writes the fold of `M` to `O`, `NBITS / 8` bytes, and changes nothing else. -/
def Obligations.NfoldWritesTheFold : Prop :=
  ∀ (keep : Bool) (s : State),
    s.msg.len.toNat ≤ s.cfg.msgCap → s.msg.len ≠ 0#32 → s.nbits ≠ 0#32 → s.nbits.toNat % 8 = 0 →
    s.nbits.toNat / 8 ≤ s.cfg.outCap →
    ∃ x : Operand, x.len.toNat = s.nbits.toNat / 8 ∧ x.valid = nfold s.msg.valid (s.nbits.toNat / 8) ∧
      (∀ i, s.nbits.toNat / 8 ≤ i → Memory.read x.bytes i = 0#8) ∧
      exec (.nfold keep) s = .next { s with out := x, status := 0x00000002#32 }

/-- R102: `HMAC.SHA1` and `HMAC.MD5` write the MAC of `M` under `K` to `O`, 20 or 16 bytes, erase `K` unless `KEEP` = 1,
and change nothing else. -/
def Obligations.HmacWritesTheMac : Prop :=
  ∀ p ∈ [(HashAlg.sha1, Instr.hmacSha1, 20), (HashAlg.md5, Instr.hmacMd5, 16)], ∀ (keep : Bool) (s : State),
    s.key.len.toNat ≤ s.cfg.keyCap → s.msg.len.toNat ≤ s.cfg.msgCap →
    ∃ x : Operand, x.len.toNat = p.2.2 ∧ x.valid = hmac p.1 s.key.valid s.msg.valid ∧
      (∀ i, p.2.2 ≤ i → Memory.read x.bytes i = 0#8) ∧
      exec (p.2.1 keep) s =
        .next { s with out := x, key := if keep then s.key else Operand.empty, status := 0x00000002#32 }

/-- R113: the four `CMAC` commands write the 16-byte MAC of `M` under a `K` of the cipher's key size, erase `K` unless
`KEEP` = 1, and change nothing else. -/
def Obligations.CmacWritesTheMac : Prop :=
  ∀ p ∈ [(Cipher.aes128, Instr.cmacAes128, 16), (Cipher.aes256, Instr.cmacAes256, 32),
         (Cipher.cam128, Instr.cmacCam128, 16), (Cipher.cam256, Instr.cmacCam256, 32)],
  ∀ (keep : Bool) (s : State),
    s.key.len.toNat ≤ s.cfg.keyCap → s.msg.len.toNat ≤ s.cfg.msgCap → s.key.len.toNat = p.2.2 →
    ∃ x : Operand, x.len = 16#32 ∧ x.valid = cmac s.cfg.cores p.1 s.key.valid s.msg.valid ∧
      (∀ i, 16 ≤ i → Memory.read x.bytes i = 0#8) ∧
      exec (p.2.1 keep) s =
        .next { s with out := x, key := if keep then s.key else Operand.empty, status := 0x00000002#32 }

/-- R124: the five `DR` commands write the derived random bytes to `O`, `keyInputSize` of them, erase `K` unless `KEEP`
= 1, and change nothing else. Rows: cipher, command, `keySize`, `keyInputSize`. -/
def Obligations.DrWritesRandomBytes : Prop :=
  ∀ p ∈ [(Cipher.des3, Instr.drDes3, 24, 21), (Cipher.aes128, Instr.drAes128, 16, 16),
         (Cipher.aes256, Instr.drAes256, 32, 32), (Cipher.cam128, Instr.drCam128, 16, 16),
         (Cipher.cam256, Instr.drCam256, 32, 32)],
  ∀ (keep : Bool) (s : State),
    s.key.len.toNat ≤ s.cfg.keyCap → s.aux.len.toNat ≤ s.cfg.auxCap → s.key.len.toNat = p.2.2.1 → s.aux.len ≠ 0#32 →
    ∃ x : Operand, x.len.toNat = p.2.2.2 ∧ x.valid = deriveRandom s.cfg.cores p.1 s.key.valid s.aux.valid ∧
      (∀ i, p.2.2.2 ≤ i → Memory.read x.bytes i = 0#8) ∧
      exec (p.2.1 keep) s =
        .next { s with out := x, key := if keep then s.key else Operand.empty, status := 0x00000002#32 }

/-- R125: the five `DK` commands write random-to-key of the derived random bytes to `O`, `keySize` bytes, erase `K`
unless `KEEP` = 1, and change nothing else. Rows: cipher, command, `keySize`. -/
def Obligations.DkWritesTheDerivedKey : Prop :=
  ∀ p ∈ [(Cipher.des3, Instr.dkDes3, 24), (Cipher.aes128, Instr.dkAes128, 16), (Cipher.aes256, Instr.dkAes256, 32),
         (Cipher.cam128, Instr.dkCam128, 16), (Cipher.cam256, Instr.dkCam256, 32)],
  ∀ (keep : Bool) (s : State),
    s.key.len.toNat ≤ s.cfg.keyCap → s.aux.len.toNat ≤ s.cfg.auxCap → s.key.len.toNat = p.2.2 → s.aux.len ≠ 0#32 →
    ∃ x : Operand, x.len.toNat = p.2.2 ∧
      x.valid = randomToKey p.1 (deriveRandom s.cfg.cores p.1 s.key.valid s.aux.valid) ∧
      (∀ i, p.2.2 ≤ i → Memory.read x.bytes i = 0#8) ∧
      exec (p.2.1 keep) s =
        .next { s with out := x, key := if keep then s.key else Operand.empty, status := 0x00000002#32 }

/-- R126: the five `R2K` commands write random-to-key of `K` to `O`, `keySize` bytes, erase `K` unless `KEEP` = 1, and
change nothing else. Rows: cipher, command, `keyInputSize`, `keySize`. -/
def Obligations.RandomToKeyWritesTheKey : Prop :=
  ∀ p ∈ [(Cipher.des3, Instr.r2kDes3, 21, 24), (Cipher.aes128, Instr.r2kAes128, 16, 16),
         (Cipher.aes256, Instr.r2kAes256, 32, 32), (Cipher.cam128, Instr.r2kCam128, 16, 16),
         (Cipher.cam256, Instr.r2kCam256, 32, 32)],
  ∀ (keep : Bool) (s : State),
    s.key.len.toNat ≤ s.cfg.keyCap → s.key.len.toNat = p.2.2.1 →
    ∃ x : Operand, x.len.toNat = p.2.2.2 ∧ x.valid = randomToKey p.1 s.key.valid ∧
      (∀ i, p.2.2.2 ≤ i → Memory.read x.bytes i = 0#8) ∧
      exec (p.2.1 keep) s =
        .next { s with out := x, key := if keep then s.key else Operand.empty, status := 0x00000002#32 }

/-- R142: `PBKDF2.SHA1` writes `REQLEN` bytes derived from the password in `K` and the salt in `A`, erases `K` unless
`KEEP` = 1, and changes nothing else. -/
def Obligations.PbkdfWritesDerivedBytes : Prop :=
  ∀ (keep : Bool) (s : State),
    s.key.len.toNat ≤ s.cfg.keyCap → s.aux.len.toNat ≤ s.cfg.auxCap → s.iter ≠ 0#32 → s.reqlen ≠ 0#32 →
    s.reqlen.toNat ≤ s.cfg.outCap →
    ∃ x : Operand, x.len = s.reqlen ∧
      x.valid = pbkdf2 s.key.valid s.aux.valid s.iter.toNat s.reqlen.toNat ∧
      (∀ i, s.reqlen.toNat ≤ i → Memory.read x.bytes i = 0#8) ∧
      exec (.pbkdf2Sha1 keep) s =
        .next { s with out := x, key := if keep then s.key else Operand.empty, status := 0x00000002#32 }

/-- R151, R152: `CONF` writes `REQLEN` free bytes to `O` and nothing else. The form of the free value, draw number `fresh` of
the answers `source` that came with the command, is the model's (log 6); the statement holds for all answers and every value
of the counter. -/
def Obligations.ConfWritesTheNextDraw : Prop :=
  ∀ (keep : Bool) (s : State), s.reqlen.toNat ≤ s.cfg.outCap →
    ∃ x : Operand, x.len = s.reqlen ∧
      (∀ i, Memory.read x.bytes i = if i < s.reqlen.toNat then Config.draw s.source s.fresh i else 0#8) ∧
      exec (.conf keep) s = .next { s with out := x, status := 0x00000002#32, fresh := s.fresh + 1 }

/-- R162: `MACCMP` sets `MATCH` exactly when `O` and `A` have one nonzero length and agree in every byte, and then
changes nothing but `STATUS`; otherwise it ends in `IntegrityFailure`, or in `InvalidParameter` when `AUXLEN` is above
its capacity. -/
def Obligations.MaccmpComparesEveryByte : Prop :=
  decode 0x00000070#32 = .ok (.maccmp false) ∧
  ∀ (keep : Bool) (s : State),
    (s.cfg.auxCap < s.aux.len.toNat →
      exec (.maccmp keep) s =
        .next { s with out := Operand.empty, errlog := s.errlog ||| 0x00000004#32, status := 0x00000206#32 }) ∧
    (s.aux.len.toNat ≤ s.cfg.auxCap → s.out.len ≠ 0#32 → s.out.len = s.aux.len →
      (∀ i, i < s.out.len.toNat → Memory.read s.out.bytes i = Memory.read s.aux.bytes i) →
      exec (.maccmp keep) s = .next { s with status := 0x0000000A#32 }) ∧
    (s.aux.len.toNat ≤ s.cfg.auxCap →
      (s.out.len = 0#32 ∨ s.out.len ≠ s.aux.len ∨
        ∃ i, i < s.out.len.toNat ∧ Memory.read s.out.bytes i ≠ Memory.read s.aux.bytes i) →
      exec (.maccmp keep) s =
        .next { s with out := Operand.empty, errlog := s.errlog ||| 0x00000008#32, status := 0x00000306#32 })

/-! ### Errors -/

/-- R234 with R233: for every command, `InvalidParameter` is raised exactly on the causes listed for it, and then the
error epilogue is the whole effect. Rows: command, whether it is key-using, its causes. -/
def Obligations.InvalidParameterCausesAreExact : Prop :=
  let never : State → Prop := fun _ => False
  let keyOver : State → Prop := fun s => s.cfg.keyCap < s.key.len.toNat
  let auxOver : State → Prop := fun s => s.cfg.auxCap < s.aux.len.toNat
  let msgOver : State → Prop := fun s => s.cfg.msgCap < s.msg.len.toNat
  let outOver (cap : Config → Nat) : State → Prop := fun s =>
    s.cfg.outCap < s.out.len.toNat ∨ cap s.cfg < s.out.len.toNat
  let hmacBad : State → Prop := fun s => keyOver s ∨ msgOver s
  let cmacBad (n : Nat) : State → Prop := fun s => keyOver s ∨ msgOver s ∨ s.key.len.toNat ≠ n
  let deriveBad (n : Nat) : State → Prop := fun s =>
    keyOver s ∨ auxOver s ∨ s.key.len.toNat ≠ n ∨ s.aux.len = 0#32
  let r2kBad (n : Nat) : State → Prop := fun s => keyOver s ∨ s.key.len.toNat ≠ n
  let rows : List ((Bool → Instr) × Bool × (State → Prop)) :=
    [(Instr.nop, false, never), (Instr.zeroize, false, never),
     (Instr.out2key, false, outOver Config.keyCap), (Instr.out2aux, false, outOver Config.auxCap),
     (Instr.out2msg, false, outOver Config.msgCap),
     (Instr.trunc, false, fun s => s.out.len.toNat < s.reqlen.toNat)] ++
    [(Instr.nfold, false, fun s => msgOver s ∨ s.msg.len = 0#32 ∨ s.nbits = 0#32 ∨ s.nbits.toNat % 8 ≠ 0 ∨
        s.cfg.outCap < s.nbits.toNat / 8),
     (Instr.hmacSha1, true, hmacBad), (Instr.hmacMd5, true, hmacBad),
     (Instr.cmacAes128, true, cmacBad 16), (Instr.cmacAes256, true, cmacBad 32),
     (Instr.cmacCam128, true, cmacBad 16), (Instr.cmacCam256, true, cmacBad 32)] ++
    [(Instr.drDes3, true, deriveBad 24), (Instr.drAes128, true, deriveBad 16), (Instr.drAes256, true, deriveBad 32),
     (Instr.drCam128, true, deriveBad 16), (Instr.drCam256, true, deriveBad 32),
     (Instr.dkDes3, true, deriveBad 24), (Instr.dkAes128, true, deriveBad 16), (Instr.dkAes256, true, deriveBad 32),
     (Instr.dkCam128, true, deriveBad 16), (Instr.dkCam256, true, deriveBad 32)] ++
    [(Instr.r2kDes3, true, r2kBad 21), (Instr.r2kAes128, true, r2kBad 16), (Instr.r2kAes256, true, r2kBad 32),
     (Instr.r2kCam128, true, r2kBad 16), (Instr.r2kCam256, true, r2kBad 32),
     (Instr.pbkdf2Sha1, true, fun s => keyOver s ∨ auxOver s ∨ s.iter = 0#32 ∨ s.reqlen = 0#32 ∨
        s.cfg.outCap < s.reqlen.toNat),
     (Instr.conf, false, fun s => s.cfg.outCap < s.reqlen.toNat), (Instr.maccmp, false, auxOver)]
  ∀ p ∈ rows, ∀ (keep : Bool) (s : State),
    (p.2.2 s →
      exec (p.1 keep) s =
        .next { s with
          out := Operand.empty
          key := if p.2.1 = true ∧ keep = false then Operand.empty else s.key
          errlog := s.errlog ||| 0x00000004#32
          status := 0x00000206#32 }) ∧
    (¬ p.2.2 s → ∀ t, exec (p.1 keep) s = .next t → t.ecode ≠ 2#4)

/-- R66, R233: a word written to `CMD` that is no command, or names no registered algorithm, ends in the error epilogue:
`IllegalCommand` never touches `K`; `UnsupportedAlgorithm` erases it when bit 16 of the word is 0. -/
def Obligations.RejectedWordTakesTheEpilogue : Prop :=
  ∀ (s : State) (w : Word) (e : Nat) (rest : List HostAction),
    s.busy = false → s.bus = .write (s.cfg.base + 0x04) 4 w e :: rest →
    (decode w = .error .illegalCommand →
      step s = .next { s with
        bus := rest, source := e, out := Operand.empty, errlog := s.errlog ||| 0x00000010#32, status := 0x00000406#32 }) ∧
    (decode w = .error .unsupportedAlgorithm →
      step s = .next { s with
        bus := rest, source := e, out := Operand.empty, errlog := s.errlog ||| 0x00000002#32, status := 0x00000106#32
        key := if w.getLsbD 16 then s.key else Operand.empty })

/-- R232: the examples of the priority rule, in every state: an unsupported algorithm is reported and not a length above
capacity; a reserved bit is reported and not an unsupported algorithm; a length above capacity is reported by `MACCMP`
and not a mismatch. -/
def Obligations.ErrorPriorityExamples : Prop :=
  ∀ (s : State) (e : Nat) (rest : List HostAction), s.busy = false →
    (s.bus = .write (s.cfg.base + 0x04) 4 0x00000220#32 e :: rest → s.cfg.keyCap < s.key.len.toNat →
      ∃ t, step s = .next t ∧ t.status = 0x00000106#32) ∧
    (s.bus = .write (s.cfg.base + 0x04) 4 0x00020220#32 e :: rest →
      ∃ t, step s = .next t ∧ t.status = 0x00000406#32) ∧
    (s.bus = .write (s.cfg.base + 0x04) 4 0x00000070#32 e :: rest → s.cfg.auxCap < s.aux.len.toNat →
      ∃ t, step s = .next t ∧ t.status = 0x00000206#32)

/-- R240: every one of the 2^32 command words, in every state that is not busy, ends in a next state whose `STATUS` is
that of a finished command. -/
def Obligations.EveryCommandWordFinishes : Prop :=
  ∀ (s : State) (w : Word) (e : Nat) (rest : List HostAction),
    s.busy = false → s.bus = .write (s.cfg.base + 0x04) 4 w e :: rest →
    ∃ t, step s = .next t ∧ t.bus = rest ∧
      t.status ∈ [0x00000002#32, 0x0000000A#32, 0x00000106#32, 0x00000206#32, 0x00000306#32, 0x00000406#32]

/-- R16, R19: after any command `BUSY` is 0, `DONE` is 1, the reserved bits are 0, `ERR` equals `ECODE` ≠ 0, and `MATCH`
is 1 only for a `MACCMP` that ended without error. -/
def Obligations.CommandRewritesStatus : Prop :=
  ∀ (i : Instr) (s t : State), exec i s = .next t →
    t.busy = false ∧ t.done = true ∧ t.status &&& ~~~0x00000F0F#32 = 0#32 ∧
    (t.err = true ↔ t.ecode ≠ 0#4) ∧
    (t.matched = true → (∃ keep, i = .maccmp keep) ∧ t.err = false)

/-- R17, R233: a command that ends with an error empties `O`, sets the `ERRLOG` bit of its code and no other, and leaves
`A`, `M` and the parameters; a command that ends without error leaves `ERRLOG`. -/
def Obligations.ErrorsPublishNothing : Prop :=
  ∀ (i : Instr) (s t : State), exec i s = .next t →
    (t.err = true →
      t.out = Operand.empty ∧ t.errlog = s.errlog ||| (1#32 <<< t.ecode.toNat) ∧ t.aux = s.aux ∧ t.msg = s.msg ∧
      t.reqlen = s.reqlen ∧ t.nbits = s.nbits ∧ t.iter = s.iter) ∧
    (t.err = false → t.errlog = s.errlog)

/-- R65, R267: a key-using command leaves `K` as it was with `KEEP` = 1 and empty with `KEEP` = 0, well ended or not, and
`KEEP` makes no other difference. -/
def Obligations.KeyUsingCommandsEraseTheKey : Prop :=
  ∀ c ∈ [Instr.hmacSha1, Instr.hmacMd5, Instr.cmacAes128, Instr.cmacAes256, Instr.cmacCam128, Instr.cmacCam256] ++
        [Instr.drDes3, Instr.drAes128, Instr.drAes256, Instr.drCam128, Instr.drCam256] ++
        [Instr.dkDes3, Instr.dkAes128, Instr.dkAes256, Instr.dkCam128, Instr.dkCam256] ++
        [Instr.r2kDes3, Instr.r2kAes128, Instr.r2kAes256, Instr.r2kCam128, Instr.r2kCam256, Instr.pbkdf2Sha1],
  ∀ s : State,
    ∃ t, exec (c true) s = .next t ∧ t.key = s.key ∧ exec (c false) s = .next { t with key := Operand.empty }

/-- R65: a command that is not key-using does not look at `KEEP`. R11, and the rules of the commands (R80, R83, R84, R93,
R152, R160, R162): of these commands only `ZEROIZE` and `OUT2KEY` write `K`. -/
def Obligations.OtherCommandsIgnoreKeep : Prop :=
  (∀ c ∈ [Instr.nop, Instr.zeroize, Instr.out2key, Instr.out2aux, Instr.out2msg, Instr.trunc, Instr.nfold,
          Instr.conf, Instr.maccmp], ∀ s : State, exec (c true) s = exec (c false) s) ∧
  (∀ c ∈ [Instr.nop, Instr.out2aux, Instr.out2msg, Instr.trunc, Instr.nfold, Instr.conf, Instr.maccmp],
    ∀ (keep : Bool) (s t : State), exec (c keep) s = .next t → t.key = s.key)

/-- R18, R65, R81 to R84 and every command's list of what it writes: `A` changes only by `OUT2AUX` and `ZEROIZE`, `M` only
by `OUT2MSG` and `ZEROIZE`, the parameters only by `ZEROIZE`; the rest of the state is no command's. -/
def Obligations.CommandsLeaveOtherRegisters : Prop :=
  ∀ (i : Instr) (s t : State), exec i s = .next t →
    t.cfg = s.cfg ∧ t.bus = s.bus ∧ t.replies = s.replies ∧ t.source = s.source ∧
    ((∀ keep, i ≠ .out2aux keep ∧ i ≠ .zeroize keep) →
      t.aux.len = s.aux.len ∧ ∀ a, Memory.read t.aux.bytes a = Memory.read s.aux.bytes a) ∧
    ((∀ keep, i ≠ .out2msg keep ∧ i ≠ .zeroize keep) →
      t.msg.len = s.msg.len ∧ ∀ a, Memory.read t.msg.bytes a = Memory.read s.msg.bytes a) ∧
    ((∀ keep, i ≠ .zeroize keep) → t.reqlen = s.reqlen ∧ t.nbits = s.nbits ∧ t.iter = s.iter) ∧
    ((∀ keep, i ≠ .conf keep) → t.fresh = s.fresh)

/-! ### The whole machine -/

/-- R5, R11, R13, R16, R17: every step keeps the invariant of the engine. -/
def Obligations.EveryStepKeepsTheInvariant : Prop :=
  ∀ s t : State, s.Inv → step s = .next t → t.Inv

/-- R23, R5: the state after reset meets the invariant, for all parameters that obey R5 and for the defaults, which
State.reset takes (log 3). -/
def Obligations.ResetMeetsTheInvariant : Prop :=
  State.reset.Inv ∧ ∀ c : Config, c.wellFormed = true → (State.resetWith c).Inv

/-- R40, R44, R240: while every pending host action is addressed to the engine with a legal width, a step answers a next
state with the same parameters, whose pending actions are again legal. Which widths are legal in a reserved range is the
model's choice (log 8). -/
def Obligations.LegalActionsNeverStopTheEngine : Prop :=
  ∀ s : State, (∀ a ∈ s.bus, HostAction.legal s.cfg a = true) →
    ∃ t, step s = .next t ∧ t.cfg = s.cfg ∧ ∀ a ∈ t.bus, HostAction.legal t.cfg a = true

/-- R17: a bit of `ERRLOG` that was set is clear after a step only if the step was the reset input or a host write of 1
to that bit of `ERRLOG`. -/
def Obligations.ErrorLogIsSticky : Prop :=
  ∀ (s t : State) (n : Nat), step s = .next t → s.errlog.getLsbD n = true → t.errlog.getLsbD n = false →
    s.bus.head? = some .reset ∨
    ∃ (v : Word) (e : Nat), s.bus.head? = some (.write (s.cfg.base + 0x0C) 4 v e) ∧ v.getLsbD n = true

/-- R46: two engines that differ only in the bytes of `K` answer every host action that starts no command alike, and
then differ again only in the bytes of `K`. Commands are left out: what they compute from `K` goes to `O`, which the host
reads. While `BUSY` = 1 it rests on the model's form of the unspecified read value (log 7). -/
def Obligations.HostAccessesRevealNoKeyBytes : Prop :=
  ∀ (s : State) (kb : Memory), (∀ (w : Word) (e : Nat), s.bus.head? ≠ some (.write (s.cfg.base + 0x04) 4 w e)) →
    (∀ t, step s = .next t →
      ∃ u, step { s with key := { s.key with bytes := kb } } = .next u ∧ u.replies = t.replies ∧
        { u with key := { u.key with bytes := t.key.bytes } } = t) ∧
    (∀ r, step s = .fault r → step { s with key := { s.key with bytes := kb } } = .fault r) ∧
    (∀ r, step s = .refused r → step { s with key := { s.key with bytes := kb } } = .refused r)

/-- R47, R48: only a command and the reset input change `O`, `OUTLEN` or `STATUS`. -/
def Obligations.HostCannotWriteTheResult : Prop :=
  ∀ s t : State, (∀ (w : Word) (e : Nat), s.bus.head? ≠ some (.write (s.cfg.base + 0x04) 4 w e)) →
    s.bus.head? ≠ some .reset →
    step s = .next t → t.out = s.out ∧ t.status = s.status

/-! ### The bus window -/

/-- R14, R51, R60: when the oldest pending action writes a command word to `CMD` and the engine is not busy, the step is
the command's meaning on the state in which that action is no longer pending and the entropy answers that came with it are
in place (the pending list and the form of those answers are the model's, log 1 and log 6). -/
def Obligations.StepRunsTheDecodedCommand : Prop :=
  ∀ (s : State) (w : Word) (e : Nat) (i : Instr) (rest : List HostAction),
    s.busy = false → s.bus = .write (s.cfg.base + 0x04) 4 w e :: rest → decode w = .ok i →
    step s = exec i { s with bus := rest, source := e }

/-- R14: with no action pending the engine waits. The pending list and `withFetchWord`, which makes a command its next
action, are the model's (log 1). -/
def Obligations.EngineWaitsForTheNextWrite : Prop :=
  (∀ s : State, s.bus = [] → step s = .next s) ∧
  ∀ (s : State) (w : Nat) (i : Instr), w < 2 ^ 32 → decode (BitVec.ofNat 32 w) = .ok i → s.busy = false →
    step (s.withFetchWord 32 w) = exec i s

/-- R15: the control registers: their reset values, what a read of each offset returns, what a write does, the reserved
offsets. Reads return reserved bits of `STATUS` and `ERRLOG` as 0. -/
def Obligations.ControlRegisterMap : Prop :=
  (∀ (c : Config) (r : Reg), readReg (State.resetWith c) r = if r = .id then 0x4B480007#32 else 0#32) ∧
  ∀ (s : State) (rest : List HostAction), s.busy = false →
    (∀ p ∈ [(0x00, 0x4B480007#32), (0x04, 0#32), (0x08, s.status &&& 0x00000F0F#32),
            (0x0C, s.errlog &&& 0x0000001E#32), (0x10, s.key.len), (0x14, s.aux.len), (0x18, s.msg.len),
            (0x1C, s.out.len), (0x20, s.reqlen), (0x24, s.nbits), (0x28, s.iter)],
      s.bus = .read (s.cfg.base + p.1) 4 :: rest →
        step s = .next { s with bus := rest, replies := s.replies ++ [p.2] }) ∧
    (∀ off, 0x2C ≤ off → off ≤ 0xFC → off % 4 = 0 → s.bus = .read (s.cfg.base + off) 4 :: rest →
      step s = .next { s with bus := rest, replies := s.replies ++ [0#32] }) ∧
    (∀ (v : Word) (e : Nat), ∀ p ∈ [(0x0C, { s with bus := rest, errlog := s.errlog &&& ~~~v }),
            (0x10, { s with bus := rest, key := { s.key with len := v } }),
            (0x14, { s with bus := rest, aux := { s.aux with len := v } }),
            (0x18, { s with bus := rest, msg := { s.msg with len := v } }),
            (0x20, { s with bus := rest, reqlen := v }), (0x24, { s with bus := rest, nbits := v }),
            (0x28, { s with bus := rest, iter := v }), (0x00, { s with bus := rest }),
            (0x08, { s with bus := rest }), (0x1C, { s with bus := rest })],
      s.bus = .write (s.cfg.base + p.1) 4 v e :: rest → step s = .next p.2) ∧
    (∀ (v : Word) (e off : Nat), 0x2C ≤ off → off ≤ 0xFC → off % 4 = 0 →
      s.bus = .write (s.cfg.base + off) 4 v e :: rest → step s = .next { s with bus := rest }) ∧
    (∀ (v : Word) (e : Nat), s.bus = .write (s.cfg.base + 0x04) 4 v e :: rest →
      step s = startCommand v { s with bus := rest, source := e })

/-- R43: a host write of byte `i` of `K`, `A` or `M` below the capacity sets that byte and no other, and no length. -/
def Obligations.WindowWriteSetsOneByte : Prop :=
  ∀ (s : State) (i : Nat) (v : Word) (e : Nat) (rest : List HostAction), s.busy = false → s.cfg.wellFormed = true →
    (i < s.cfg.keyCap → Memory.wf s.key.bytes → s.bus = .write (s.cfg.base + 0x1000 + i) 1 v e :: rest →
      ∃ x : Operand, x.len = s.key.len ∧
        (∀ j, Memory.read x.bytes j = if j = i then v.setWidth 8 else Memory.read s.key.bytes j) ∧
        step s = .next { s with bus := rest, key := x }) ∧
    (i < s.cfg.auxCap → Memory.wf s.aux.bytes → s.bus = .write (s.cfg.base + 0x2000 + i) 1 v e :: rest →
      ∃ x : Operand, x.len = s.aux.len ∧
        (∀ j, Memory.read x.bytes j = if j = i then v.setWidth 8 else Memory.read s.aux.bytes j) ∧
        step s = .next { s with bus := rest, aux := x }) ∧
    (i < s.cfg.msgCap → Memory.wf s.msg.bytes → s.bus = .write (s.cfg.base + 0x10000 + i) 1 v e :: rest →
      ∃ x : Operand, x.len = s.msg.len ∧
        (∀ j, Memory.read x.bytes j = if j = i then v.setWidth 8 else Memory.read s.msg.bytes j) ∧
        step s = .next { s with bus := rest, msg := x })

/-- R40, R43: a host read of byte `i` of `A`, `O` or `M` below the capacity returns that byte and changes nothing. -/
def Obligations.WindowReadReturnsTheByte : Prop :=
  ∀ (s : State) (i : Nat) (rest : List HostAction), s.busy = false → s.cfg.wellFormed = true →
    (i < s.cfg.auxCap → s.bus = .read (s.cfg.base + 0x2000 + i) 1 :: rest →
      step s = .next { s with bus := rest, replies := s.replies ++ [(Memory.read s.aux.bytes i).setWidth 32] }) ∧
    (i < s.cfg.outCap → s.bus = .read (s.cfg.base + 0x3000 + i) 1 :: rest →
      step s = .next { s with bus := rest, replies := s.replies ++ [(Memory.read s.out.bytes i).setWidth 32] }) ∧
    (i < s.cfg.msgCap → s.bus = .read (s.cfg.base + 0x10000 + i) 1 :: rest →
      step s = .next { s with bus := rest, replies := s.replies ++ [(Memory.read s.msg.bytes i).setWidth 32] })

/-- R46: a read of any byte of the `K` window returns 0, whatever `K` holds; `KEYLEN` is readable. -/
def Obligations.KeyWindowReadsZero : Prop :=
  ∀ (s : State) (rest : List HostAction), s.busy = false →
    (∀ i, i < 0x1000 → s.bus = .read (s.cfg.base + 0x1000 + i) 1 :: rest →
      step s = .next { s with bus := rest, replies := s.replies ++ [0#32] }) ∧
    (s.bus = .read (s.cfg.base + 0x10) 4 :: rest →
      step s = .next { s with bus := rest, replies := s.replies ++ [s.key.len] })

/-- R45, R47: at or beyond the capacity of an operand window, and in a reserved range, a legal read returns 0 and a legal
write is ignored; a write to the `O` window is ignored everywhere. That a byte access is legal in a reserved range is the
model's reading (log 8). -/
def Obligations.BeyondCapacityReadsZeroAndIgnoresWrites : Prop :=
  ∀ (s : State) (off : Nat) (rest : List HostAction), s.busy = false →
    ((0x1000 + s.cfg.keyCap ≤ off ∧ 0x1000 ≤ off ∧ off < 0x2000) ∨
      (0x2000 + s.cfg.auxCap ≤ off ∧ 0x2000 ≤ off ∧ off < 0x3000) ∨
      (0x3000 + s.cfg.outCap ≤ off ∧ 0x3000 ≤ off ∧ off < 0x4000) ∨
      (0x10000 + s.cfg.msgCap ≤ off ∧ 0x10000 ≤ off ∧ off < 0x20000) ∨
      (0x100 ≤ off ∧ off < 0x1000) ∨ (0x4000 ≤ off ∧ off < 0x10000) →
      (s.bus = .read (s.cfg.base + off) 1 :: rest →
        step s = .next { s with bus := rest, replies := s.replies ++ [0#32] }) ∧
      (∀ (v : Word) (e : Nat), s.bus = .write (s.cfg.base + off) 1 v e :: rest → step s = .next { s with bus := rest })) ∧
    (∀ (v : Word) (e : Nat), 0x3000 ≤ off → off < 0x4000 → s.bus = .write (s.cfg.base + off) 1 v e :: rest →
      step s = .next { s with bus := rest })

/-- R44, R242: an access to the control registers that is not an aligned 32-bit access, and an access to an operand
window that is not an 8-bit access, is refused. -/
def Obligations.IllegalWidthsAreRefused : Prop :=
  ∀ (s : State) (off width : Nat) (v : Word) (e : Nat) (rest : List HostAction),
    (off < 0x100 ∧ (width ≠ 4 ∨ off % 4 ≠ 0)) ∨ (0x1000 ≤ off ∧ off < 0x4000 ∧ width ≠ 1) ∨
      (0x10000 ≤ off ∧ off < 0x20000 ∧ width ≠ 1) →
    s.bus = .read (s.cfg.base + off) width :: rest ∨ s.bus = .write (s.cfg.base + off) width v e :: rest →
    step s = .refused (.illegalAccess off width)

/-- The model's choice (log 9): an access outside the window, which is not addressed to the engine, stops the model with
the fault of its own name. -/
def Obligations.AccessOutsideTheWindowFaults : Prop :=
  ∀ (s : State) (addr width : Nat) (v : Word) (e : Nat) (rest : List HostAction),
    addr < s.cfg.base ∨ s.cfg.base + 0x20000 ≤ addr →
    s.bus = .read addr width :: rest ∨ s.bus = .write addr width v e :: rest →
    step s = .fault (.outsideWindow addr)

/-- R266, as the model takes it (log 7): while `BUSY` = 1 a legal write is ignored, a read of `STATUS` shows `BUSY` alone,
and any other legal read returns a free value. -/
def Obligations.BusyEngineIgnoresWrites : Prop :=
  ∀ (s : State) (off width : Nat) (v : Word) (e : Nat) (rest : List HostAction),
    s.busy = true → off < 0x20000 → legalAccess off width = true →
    (s.bus = .write (s.cfg.base + off) width v e :: rest → step s = .next { s with bus := rest }) ∧
    (off = 0x08 → s.bus = .read (s.cfg.base + off) width :: rest →
      step s = .next { s with bus := rest, replies := s.replies ++ [0x00000001#32] }) ∧
    (off ≠ 0x08 → s.bus = .read (s.cfg.base + off) width :: rest →
      ∃ x : Word, step s = .next { s with bus := rest, replies := s.replies ++ [x], fresh := s.fresh + 1 })

/-- R23, R260: the reset input puts every piece of architectural state at its reset value from any state. That the
parameters, the pending actions, the replies and the two fields behind the free values stay is the model's choice
(log 14). -/
def Obligations.ResetInputRestoresEverything : Prop :=
  ∀ (s : State) (rest : List HostAction), s.bus = .reset :: rest →
    step s = .next { State.resetWith s.cfg with bus := rest, replies := s.replies, source := s.source, fresh := s.fresh }

/-- R23: after reset every byte of `K`, `A`, `M` and `O` is 0, every length, parameter, `STATUS` and `ERRLOG` is 0, and
`ID` reads its constant. -/
def Obligations.ResetValues : Prop :=
  ∀ c : Config,
    (∀ x ∈ [(State.resetWith c).key, (State.resetWith c).aux, (State.resetWith c).msg, (State.resetWith c).out],
      x.len = 0#32 ∧ ∀ i, Memory.read x.bytes i = 0#8) ∧
    (State.resetWith c).reqlen = 0#32 ∧ (State.resetWith c).nbits = 0#32 ∧ (State.resetWith c).iter = 0#32 ∧
    (State.resetWith c).status = 0#32 ∧ (State.resetWith c).errlog = 0#32 ∧
    readReg (State.resetWith c) .id = 0x4B480007#32

/-- R71, R270: the pseudo-operations `LDK`, `LDA`, `LDM` leave the operand register holding exactly `b` as its valid
bytes, the bytes beyond as they were, and nothing else changed. -/
def Obligations.LoadSequencesLoad : Prop :=
  ∀ (s : State) (b : Bytes) (rest : List HostAction), s.busy = false → s.cfg.wellFormed = true →
    (b.length ≤ s.cfg.keyCap → Memory.wf s.key.bytes → s.bus = ldk s.cfg b ++ rest →
      ∃ x : Operand, x.valid = b ∧ (∀ i, b.length ≤ i → Memory.read x.bytes i = Memory.read s.key.bytes i) ∧
        Host.Core.run Sys2Proof.core (b.length + 1) s = .next { s with bus := rest, key := x }) ∧
    (b.length ≤ s.cfg.auxCap → Memory.wf s.aux.bytes → s.bus = lda s.cfg b ++ rest →
      ∃ x : Operand, x.valid = b ∧ (∀ i, b.length ≤ i → Memory.read x.bytes i = Memory.read s.aux.bytes i) ∧
        Host.Core.run Sys2Proof.core (b.length + 1) s = .next { s with bus := rest, aux := x }) ∧
    (b.length ≤ s.cfg.msgCap → Memory.wf s.msg.bytes → s.bus = ldm s.cfg b ++ rest →
      ∃ x : Operand, x.valid = b ∧ (∀ i, b.length ≤ i → Memory.read x.bytes i = Memory.read s.msg.bytes i) ∧
        Host.Core.run Sys2Proof.core (b.length + 1) s = .next { s with bus := rest, msg := x })

/-! ### The functions the commands compute -/

/-- R91: the bit at position `p` of the input is at position `(p + r) mod 8m` of the input rotated right by `r`. -/
def Obligations.NfoldRotationMovesBits : Prop :=
  ∀ (b : Bytes) (r p : Nat), p < 8 * b.length →
    (nfoldRot b r).length = b.length ∧ bitAt (nfoldRot b r) ((p + r) % (8 * b.length)) = bitAt b p

/-- R92: one's-complement addition of two `n`-byte strings is the representative of their sum modulo `2^(8n) - 1` that
lies in `1 .. 2^(8n) - 1` when the sum is not zero. -/
def Obligations.OnesComplementSum : Prop :=
  ∀ (n : Nat) (a b : Bytes), 1 ≤ n → a.length = n → b.length = n →
    (ocadd n a b).length = n ∧
    bytesToNat (ocadd n a b) =
      if bytesToNat a + bytesToNat b = 0 then 0
      else (bytesToNat a + bytesToNat b - 1) % (2 ^ (8 * n) - 1) + 1

/-- R91, R92, R93: the fold of a nonempty string of `m` bytes to `n` bytes has exactly `n` bytes. It is the sum of the
`n`-byte chunks of the string `big` of `lcm(m, n)` bytes, whose copy number `i` of the input has the input's bit `p` at
`(p + 13 i) mod 8m`; as a number, the representative of the sum modulo `2^(8n) - 1` in `1 .. 2^(8n) - 1` unless every chunk is
zero. Folding to the input's own length returns the input; folding to a divisor of the length sums the chunks unrotated. -/
def Obligations.NfoldSumsRotatedCopies : Prop :=
  ∀ (b : Bytes) (n : Nat), b ≠ [] → 1 ≤ n →
    (nfold b n).length = n ∧ (b.length = n → nfold b n = b) ∧
    (b.length % n = 0 → nfold b n = (pieces n b).foldl (ocadd n) (zeros n)) ∧
    ∃ big : Bytes, big.length = Nat.lcm b.length n ∧
      (∀ i p, i < Nat.lcm b.length n / b.length → p < 8 * b.length →
        bitAt big (8 * b.length * i + (p + 13 * i) % (8 * b.length)) = bitAt b p) ∧
      let chunks := (List.range (Nat.lcm b.length n / n)).map fun j => (big.drop (n * j)).take n
      let total := (chunks.map bytesToNat).sum
      nfold b n = chunks.foldl (ocadd n) (zeros n) ∧
      bytesToNat (nfold b n) = if total = 0 then 0 else (total - 1) % (2 ^ (8 * n) - 1) + 1

/-- R171, R174, R175: the hashes are total functions to exactly 20 and 16 bytes. -/
def Obligations.HashOutputSizes : Prop :=
  ∀ m : Bytes, (hash .sha1 m).length = 20 ∧ (hash .md5 m).length = 16

/-- R101: a key of at most 64 bytes is used as it is, padded with zeros; a longer one is hashed first; the MAC has the
size of the hash. -/
def Obligations.HmacKeyRule : Prop :=
  ∀ (h : HashAlg) (key msg : Bytes),
    (key.length ≤ 64 →
      hmac h key msg =
        hash h ((key ++ zeros (64 - key.length)).map (fun x => x ^^^ 0x5c#8) ++
          hash h ((key ++ zeros (64 - key.length)).map (fun x => x ^^^ 0x36#8) ++ msg))) ∧
    (64 < key.length → hmac h key msg = hmac h (hash h key) msg) ∧
    (hmac h key msg).length = hashOutputSize h

/-- R111: doubling is a left shift of the 128-bit string, with `0x87` into the last byte if a 1 was shifted out. -/
def Obligations.CmacDoublingShifts : Prop :=
  ∀ b : Bytes, b.length = 16 →
    (cmacDouble b).length = 16 ∧
    bytesToBits 128 (cmacDouble b) =
      (bytesToBits 128 b <<< 1) ^^^ (if (bytesToBits 128 b).msb then 0x87#128 else 0#128)

/-- R112: CMAC of any number of blocks `bs` before a final block `msg` of 1 to 16 bytes (or of none, for the empty message):
the blocks are chained from zeros, the final block is complete under `K1` or padded under `K2`. The cases of one block and of
two are written out. `CMAC[c]` is that over the cipher's `Enc`. -/
def Obligations.CmacChainsTheBlocks : Prop :=
  (∀ (cores : Cores) (c : Cipher) (key msg : Bytes), cmac cores c key msg = cmacWith (encBlock cores c key) msg) ∧
  ∀ (enc : Bytes → Bytes) (msg : Bytes), (∀ b : Bytes, (enc b).length = 16) →
    let k1 := cmacDouble (enc (zeros 16))
    let k2 := cmacDouble k1
    (msg.length = 16 → cmacWith enc msg = enc (xorBytes msg k1)) ∧
    (msg.length < 16 → cmacWith enc msg = enc (xorBytes (msg ++ [0x80#8] ++ zeros (15 - msg.length)) k2)) ∧
    (∀ b : Bytes, b.length = 16 → msg.length = 16 →
      cmacWith enc (b ++ msg) = enc (xorBytes (enc b) (xorBytes msg k1))) ∧
    (∀ b : Bytes, b.length = 16 → 0 < msg.length → msg.length < 16 →
      cmacWith enc (b ++ msg) =
        enc (xorBytes (enc b) (xorBytes (msg ++ [0x80#8] ++ zeros (15 - msg.length)) k2))) ∧
    (∀ bs : List Bytes, (∀ b ∈ bs, b.length = 16) →
      let x := bs.foldl (fun x b => enc (xorBytes x b)) (zeros 16)
      (msg.length = 16 → cmacWith enc (bs.flatten ++ msg) = enc (xorBytes x (xorBytes msg k1))) ∧
      (msg.length < 16 → 0 < msg.length ∨ bs = [] →
        cmacWith enc (bs.flatten ++ msg) =
          enc (xorBytes x (xorBytes (msg ++ [0x80#8] ++ zeros (15 - msg.length)) k2))))

/-- R121: the simplified profile: one encryption for AES128, two chained ones for AES256, three for DES3 with the last
cut to 5 bytes; the constant is folded unless it is one block long. -/
def Obligations.SimplifiedProfileChain : Prop :=
  ∀ (cores : Cores) (key const : Bytes),
    let start (bs : Nat) := if const.length = bs then const else nfold const bs
    let e (c : Cipher) := encBlock cores c key
    deriveRandom cores .aes128 key const = e .aes128 (start 16) ∧
    deriveRandom cores .aes256 key const =
      e .aes256 (start 16) ++ e .aes256 (e .aes256 (start 16)) ∧
    deriveRandom cores .des3 key const =
      e .des3 (start 8) ++ e .des3 (e .des3 (start 8)) ++
        (e .des3 (e .des3 (e .des3 (start 8)))).take 5

/-- R122: the formatted profile: one CMAC for CAM128, two chained ones for CAM256, each over the fed-back block, the
counter from 1, the constant unfolded, a zero byte and the output length in bits. -/
def Obligations.FormattedProfileFeedback : Prop :=
  ∀ (cores : Cores) (key const : Bytes),
    let m1 (c : Cipher) (bits : Nat) :=
      cmac cores c key (zeros 16 ++ be32 1 ++ const ++ [0x00#8] ++ be32 bits)
    deriveRandom cores .cam128 key const = m1 .cam128 128 ∧
    deriveRandom cores .cam256 key const =
      m1 .cam256 256 ++ cmac cores .cam256 key (m1 .cam256 256 ++ be32 2 ++ const ++ [0x00#8] ++ be32 256)

/-- R123, R125, R126, R172: the derived bytes and keys have the registry's sizes; random-to-key is the identity on every
string but for triple-DES, where it is the three thirds of the 21 bytes, one after another; so `DK` is `DR` but for
triple-DES. Rows: cipher, `keyInputSize`, `keySize`. -/
def Obligations.DerivedSizesAndRandomToKey : Prop :=
  (∀ p ∈ [(Cipher.des3, 21, 24), (Cipher.aes128, 16, 16), (Cipher.aes256, 32, 32), (Cipher.cam128, 16, 16),
          (Cipher.cam256, 32, 32)],
    ∀ (cores : Cores) (key const : Bytes),
      (deriveRandom cores p.1 key const).length = p.2.1 ∧ (deriveKey cores p.1 key const).length = p.2.2 ∧
      (p.1 ≠ .des3 → deriveKey cores p.1 key const = deriveRandom cores p.1 key const)) ∧
  (∀ (c : Cipher) (r : Bytes), c ≠ .des3 → randomToKey c r = r) ∧
  ∀ r : Bytes, r.length = 21 →
    (randomToKey .des3 r).length = 24 ∧
    ∃ r1 r2 r3 : Bytes, r = r1 ++ r2 ++ r3 ∧ r1.length = 7 ∧ r2.length = 7 ∧ r3.length = 7 ∧
      randomToKey .des3 r = third r1 ++ third r2 ++ third r3

/-- R127, R128: the expansion of a 7-byte string has 8 bytes of odd parity, the upper seven bits of input byte `i` in byte
`i` and its low bit at bit `i + 1` of byte 7, so it loses none of the 56 bits. A third is that, with `0xF0` exclusive-or'ed
into the last byte if it is in the weak-key table; it has odd parity and is never in the table. -/
def Obligations.ThirdIsOddAndNotWeak : Prop :=
  weakKeys.map bytesToNat =
    [0x0101010101010101, 0xfefefefefefefefe, 0x1f1f1f1f0e0e0e0e, 0xe0e0e0e0f1f1f1f1] ++
    [0x01fe01fe01fe01fe, 0xfe01fe01fe01fe01, 0x1fe01fe00ef10ef1, 0xe01fe01ff10ef10e] ++
    [0x01e001e001f101f1, 0xe001e001f101f101, 0x1ffe1ffe0efe0efe, 0xfe1ffe1ffe0efe0e] ++
    [0x011f011f010e010e, 0x1f011f010e010e01, 0xe0fee0fef1fef1fe, 0xfee0fee0fef1fef1] ∧
  (∀ s : Bytes, s.length = 7 →
    (expandThird s).length = 8 ∧ (∀ b ∈ expandThird s, onesOf b % 2 = 1) ∧
    (∀ i, i < 7 → (expandThird s).getD i 0#8 >>> 1 = s.getD i 0#8 >>> 1 ∧
      ((expandThird s).getD 7 0#8).getLsbD (i + 1) = (s.getD i 0#8).getLsbD 0) ∧
    (third s).length = 8 ∧ (∀ b ∈ third s, onesOf b % 2 = 1) ∧ third s ∉ weakKeys ∧
    (expandThird s ∉ weakKeys → third s = expandThird s) ∧
    (expandThird s ∈ weakKeys →
      third s = (expandThird s).take 7 ++ [(expandThird s).getD 7 0#8 ^^^ 0xF0#8])) ∧
  ∀ s t : Bytes, s.length = 7 → t.length = 7 → expandThird s = expandThird t → s = t

/-- R173: an external cipher core is, for every key, a permutation of the blocks; opaque permutations are the model's form
of that parameter (log 4). Rows: cipher, `blockSize`. -/
def Obligations.ExternalCoresPermuteBlocks : Prop :=
  ∀ p ∈ [(Cipher.des3, 8), (Cipher.aes128, 16), (Cipher.aes256, 16), (Cipher.cam128, 16), (Cipher.cam256, 16)],
  ∀ key : Bytes,
    (∀ b c : Bytes, b.length = p.2 → c.length = p.2 →
      encBlock .external p.1 key b = encBlock .external p.1 key c → b = c) ∧
    (∀ c : Bytes, c.length = p.2 → ∃ b : Bytes, b.length = p.2 ∧ encBlock .external p.1 key b = c)

/-- R181: the parity bit of every key byte is ignored by the intended triple-DES. The inside of DES is presumed (log 5). -/
def Obligations.TripleDesIgnoresParity : Prop :=
  ∀ (key : BitVec 192) (block : BitVec 64),
    des3Encrypt (key &&& 0xfefefefefefefefefefefefefefefefefefefefefefefefe#192) block = des3Encrypt key block

/-- R181 and the inside of DES (log 5): decryption with a key undoes encryption with it. -/
def Obligations.DesDecryptUndoesEncrypt : Prop :=
  ∀ key block : BitVec 64, desDecrypt key (desEncrypt key block) = block

/-- R141, R143: with `U_1 = HMAC(P, S ‖ be32(i))` and `U_(j+1) = HMAC(P, U_j)`, block `i`, which is bytes `20 (i - 1)` on,
is the exclusive-or of `U_1` to `U_c`, the last block cut to the length asked for. The result has `dkLen` bytes; a shorter
request is a prefix of a longer one; the first block for one and for two iterations is written out. -/
def Obligations.PbkdfBlocks : Prop :=
  ∀ (p s : Bytes) (c n : Nat), 1 ≤ c →
    (pbkdf2 p s c n).length = n ∧
    (∀ i, 1 ≤ i → 20 * (i - 1) < n →
      ((pbkdf2 p s c n).drop (20 * (i - 1))).take 20 =
        ((List.range c).foldl (fun t j => xorBytes t ((hmac .sha1 p)^[j + 1] (s ++ be32 i))) (zeros 20)).take
          (n - 20 * (i - 1))) ∧
    (∀ k, k ≤ n → pbkdf2 p s c k = (pbkdf2 p s c n).take k) ∧
    (n ≤ 20 → pbkdf2 p s 1 n = (hmac .sha1 p (s ++ be32 1)).take n) ∧
    (n ≤ 20 → pbkdf2 p s 2 n =
      (xorBytes (hmac .sha1 p (s ++ be32 1)) (hmac .sha1 p (hmac .sha1 p (s ++ be32 1)))).take n)

/-! ### The host's pseudo-operations -/

/-- R71: an access is one host access; the poll of `CMD` repeats while the answer has `BUSY` = 1 and ends on the first with
`BUSY` = 0; `CMD` of any word is the command and one answer of `STATUS`; `RDO` reads `OUTLEN` and then exactly that many
bytes, in order from byte 0, so `OUTLEN` alone after a command that ended in an error. The driver is the model's form of the
host (log 19). -/
def Obligations.HostPollsAndReadsOut : Prop :=
  ∀ (s : State) (rest : List HostOp),
    (∀ (a : HostAction) (t : State), step { s with bus := a :: s.bus } = .next t →
      hostStep { todo := .access a :: rest, engine := s } = .next { todo := rest, engine := t }) ∧
    (s.busy = true →
      hostStep { todo := .poll :: rest, engine := s } =
        .next { todo := .poll :: rest, engine := { s with replies := s.replies ++ [0x00000001#32] } }) ∧
    (s.busy = false →
      hostStep { todo := .poll :: rest, engine := s } =
        .next { todo := rest, engine := { s with replies := s.replies ++ [s.status &&& 0x00000F0F#32] } }) ∧
    (s.busy = false → ∀ (w : Word) (e : Nat),
      ∃ t, startCommand w { s with source := e } = .next t ∧
        hostRun 2 { todo := cmdWord s.cfg w e ++ rest, engine := s } =
          .next { todo := rest, engine := { t with replies := s.replies ++ [t.status] } }) ∧
    (s.busy = false → s.cfg.wellFormed = true → s.out.len.toNat ≤ s.cfg.outCap →
      hostRun (s.out.len.toNat + 1) { todo := rdo ++ rest, engine := s } =
        .next { todo := rest, engine := { s with
          replies := s.replies ++ s.out.len :: s.out.valid.map fun b => b.setWidth 32 } }) ∧
    (∀ (i : Instr) (t : State), exec i s = .next t → t.err = true →
      hostRun 1 { todo := rdo ++ rest, engine := t } =
        .next { todo := rest, engine := { t with replies := t.replies ++ [0#32] } })
end

