-- ==== Sys2Proof/Laws/Bytes.lean ====
section
/-! SUPPORT. Byte strings and integers: lengths, values, and the sizes of provider results. -/

namespace Sys2Proof.Machine

@[simp] theorem length_natToBytes (n v : Nat) : (natToBytes n v).length = n := by
  induction n with
  | zero => rfl
  | succ n ih => simp [natToBytes, ih]

@[simp] theorem length_natToBytesLE (n v : Nat) : (natToBytesLE n v).length = n := by simp [natToBytesLE]

@[simp] theorem length_be32 (v : Nat) : (be32 v).length = 4 := length_natToBytes 4 v

@[simp] theorem length_le32 (v : Nat) : (le32 v).length = 4 := length_natToBytesLE 4 v

@[simp] theorem length_be64 (v : Nat) : (be64 v).length = 8 := length_natToBytes 8 v

@[simp] theorem length_le64 (v : Nat) : (le64 v).length = 8 := length_natToBytesLE 8 v

@[simp] theorem length_zeros (n : Nat) : (zeros n).length = n := by simp [zeros]

@[simp] theorem length_xorBytes (a b : Bytes) : (xorBytes a b).length = min a.length b.length := by
  simp [xorBytes]

@[simp] theorem bytesToNat_nil : bytesToNat [] = 0 := rfl

theorem bytesToNat_foldl (b : Bytes) (acc : Nat) :
    b.foldl (fun a x => a * 256 + x.toNat) acc = acc * 256 ^ b.length + bytesToNat b := by
  induction b generalizing acc with
  | nil => simp
  | cons x b ih =>
    simp only [bytesToNat, List.foldl_cons, List.length_cons]
    rw [ih, ih (0 * 256 + x.toNat)]
    ring

theorem bytesToNat_cons (x : Byte) (b : Bytes) :
    bytesToNat (x :: b) = x.toNat * 256 ^ b.length + bytesToNat b := by
  rw [bytesToNat, List.foldl_cons, bytesToNat_foldl]
  ring

theorem bytesToNat_append (a b : Bytes) : bytesToNat (a ++ b) = bytesToNat a * 256 ^ b.length + bytesToNat b := by
  rw [bytesToNat, List.foldl_append, bytesToNat_foldl]
  rfl

/-- `int(b)` lies below `2^(8 len(b))` (R7). -/
theorem bytesToNat_lt (b : Bytes) : bytesToNat b < 256 ^ b.length := by
  induction b with
  | nil => simp
  | cons x b ih =>
    rw [bytesToNat_cons, List.length_cons, pow_succ]
    have hx := Nat.mul_le_mul_right (256 ^ b.length) (Nat.succ_le_of_lt x.isLt)
    rw [Nat.succ_mul] at hx
    linarith

/-- `int(bytes_n(v))` is `v` modulo `2^(8n)` (R7). -/
theorem bytesToNat_natToBytes (n v : Nat) : bytesToNat (natToBytes n v) = v % 256 ^ n := by
  induction n with
  | zero => simp [natToBytes, Nat.mod_one]
  | succ n ih =>
    rw [natToBytes, bytesToNat_cons, ih, length_natToBytes, BitVec.toNat_ofNat, Nat.shiftRight_eq_div_pow,
      show (2 : Nat) ^ (8 * n) = 256 ^ n by rw [pow_mul]; norm_num, show (2 : Nat) ^ 8 = 256 by norm_num,
      pow_succ, Nat.mod_mul]
    ring

/-- `bytes_n(int(b))` is `b` for a string of `n` bytes (R7). -/
theorem natToBytes_bytesToNat (b : Bytes) : natToBytes b.length (bytesToNat b) = b := by
  have step : ∀ (c : Bytes) (hi : Nat), natToBytes c.length (hi * 256 ^ c.length + bytesToNat c) = c := by
    intro c
    induction c with
    | nil => intro hi; rfl
    | cons x c ih =>
      intro hi
      have hlt := bytesToNat_lt c
      rw [List.length_cons, natToBytes, bytesToNat_cons,
        show hi * 256 ^ (c.length + 1) + (x.toNat * 256 ^ c.length + bytesToNat c) =
          (hi * 256 + x.toNat) * 256 ^ c.length + bytesToNat c by ring, ih]
      congr 1
      rw [Nat.shiftRight_eq_div_pow, show (2 : Nat) ^ (8 * c.length) = 256 ^ c.length by rw [pow_mul]; norm_num,
        Nat.mul_comm, Nat.mul_add_div (by positivity), Nat.div_eq_of_lt hlt, Nat.add_zero]
      apply BitVec.eq_of_toNat_eq
      have := x.isLt
      simp only [BitVec.toNat_ofNat]
      omega
  simpa using step b 0

/-- A block-cipher core answers a block (R173). -/
@[simp] theorem length_encBlock (cores : Cores) (c : Cipher) (key block : Bytes) :
    (encBlock cores c key block).length = cipherBlockSize c := by
  cases c <;> simp [encBlock, cipherBlockSize]

end Sys2Proof.Machine
end

