-- ==== Sys2Proof/Laws/Memory.lean ====
section
/-! SUPPORT. The bytes of an operand register: read after write, read after a whole store, and the canonical form that every
memory operation keeps. -/

namespace Sys2Proof.Machine

@[simp] theorem read_nil (i : Nat) : Memory.read [] i = 0#8 := rfl

theorem read_cons (c : Host.Cell) (m : Memory) (i : Nat) :
    Memory.read (c :: m) i = if c.1 = i then c.2 else Memory.read m i := rfl

theorem wf_nil : Memory.wf [] := ⟨List.Pairwise.nil, by simp⟩

theorem wf_cons {c : Host.Cell} {m : Memory} :
    Memory.wf (c :: m) ↔ (∀ d ∈ m, c.1 < d.1) ∧ c.2 ≠ 0#8 ∧ Memory.wf m := by
  simp only [Memory.wf, List.pairwise_cons, List.forall_mem_cons]
  tauto

/-- An index below every listed one reads zero. -/
theorem read_eq_zero_of_lt {m : Memory} {i : Nat} (h : ∀ d ∈ m, i < d.1) : Memory.read m i = 0#8 := by
  induction m with
  | nil => rfl
  | cons c m ih =>
    have hc : c.1 ≠ i := by have := h c (by simp); omega
    rw [read_cons, if_neg hc]
    exact ih fun d hd => h d (by simp [hd])

/-- What a write lists: what was listed, or the written entry. -/
theorem mem_write {m : Memory} {i : Nat} {b : Byte} {d : Host.Cell} (h : d ∈ Memory.write m i b) :
    d ∈ m ∨ (d = (i, b) ∧ b ≠ 0#8) := by
  induction m with
  | nil =>
    simp only [Memory.write] at h
    split at h <;> simp_all
  | cons c m ih =>
    simp only [Memory.write] at h
    split at h
    · rcases List.mem_cons.1 h with rfl | h
      · simp
      · rcases ih h with h | h
        · exact .inl (by simp [h])
        · exact .inr h
    · split at h
      · split at h
        · exact .inl (by simp [h])
        · rcases List.mem_cons.1 h with rfl | h
          · exact .inr ⟨rfl, by assumption⟩
          · exact .inl (by simp [h])
      · split at h
        · exact .inl h
        · rcases List.mem_cons.1 h with rfl | h
          · exact .inr ⟨rfl, by assumption⟩
          · exact .inl h

/-- A write keeps the canonical form. -/
theorem wf_write {m : Memory} (h : Memory.wf m) (i : Nat) (b : Byte) : Memory.wf (Memory.write m i b) := by
  induction m with
  | nil =>
    simp only [Memory.write]
    split
    · exact wf_nil
    · exact wf_cons.2 ⟨by simp, by simpa, wf_nil⟩
  | cons c m ih =>
    obtain ⟨hlt, hne, hm⟩ := wf_cons.1 h
    simp only [Memory.write]
    split
    · rename_i hci
      refine wf_cons.2 ⟨fun d hd => ?_, hne, ih hm⟩
      rcases mem_write hd with hd | ⟨rfl, -⟩
      · exact hlt d hd
      · exact hci
    · split
      · rename_i hci
        split
        · exact hm
        · exact wf_cons.2 ⟨fun d hd => hci ▸ hlt d hd, by simpa, hm⟩
      · rename_i h1 h2
        split
        · exact h
        · refine wf_cons.2 ⟨fun d hd => ?_, by simpa, h⟩
          rcases List.mem_cons.1 hd with rfl | hd
          · show i < d.1
            omega
          · have := hlt d hd
            show i < d.1
            omega

/-- Reading after a write (R43): the written byte at its index, the old bytes elsewhere. -/
theorem read_write {m : Memory} (h : Memory.wf m) (i j : Nat) (b : Byte) :
    Memory.read (Memory.write m i b) j = if j = i then b else Memory.read m j := by
  induction m with
  | nil =>
    simp only [Memory.write]
    split <;> rename_i hb
    · simp [hb]
    · simp [read_cons, eq_comm]
  | cons c m ih =>
    obtain ⟨hlt, -, hm⟩ := wf_cons.1 h
    simp only [Memory.write]
    split
    · rename_i hci
      rw [read_cons, read_cons, ih hm]
      by_cases hj : j = i
      · rw [if_neg (by omega), if_pos hj, if_pos hj]
      · rw [if_neg hj, if_neg hj]
    · split
      · rename_i hci
        split
        · rename_i hb
          by_cases hj : j = i
          · rw [if_pos hj, hb, read_eq_zero_of_lt fun d hd => by have := hlt d hd; omega]
          · rw [if_neg hj, read_cons, if_neg (by omega)]
        · by_cases hj : j = i
          · rw [read_cons, if_pos (by exact hj.symm), if_pos hj]
          · rw [read_cons, read_cons, if_neg (fun e => hj e.symm), if_neg hj, if_neg (by omega)]
      · rename_i h1 h2
        split
        · rename_i hb
          by_cases hj : j = i
          · rw [if_pos hj, hb]
            refine read_eq_zero_of_lt fun d hd => ?_
            rcases List.mem_cons.1 hd with rfl | hd
            · omega
            · have := hlt d hd
              omega
          · rw [if_neg hj]
        · rw [read_cons]
          by_cases hj : j = i
          · rw [if_pos (by exact hj.symm), if_pos hj]
          · rw [if_neg (fun e => hj e.symm), if_neg hj]

/-- What a whole store lists lies where the string was placed. -/
theorem mem_place {v : Bytes} {i : Nat} {d : Host.Cell} (h : d ∈ Memory.place i v) :
    i ≤ d.1 ∧ d.1 < i + v.length ∧ d.2 ≠ 0#8 := by
  induction v generalizing i with
  | nil => simp [Memory.place] at h
  | cons b v ih =>
    simp only [Memory.place] at h
    split at h
    · obtain ⟨h1, h2, h3⟩ := ih h
      exact ⟨by omega, by simp only [List.length_cons]; omega, h3⟩
    · rcases List.mem_cons.1 h with rfl | h
      · exact ⟨le_refl i, by simp only [List.length_cons]; omega, by assumption⟩
      · obtain ⟨h1, h2, h3⟩ := ih h
        exact ⟨by omega, by simp only [List.length_cons]; omega, h3⟩

/-- A whole store is in canonical form. -/
theorem wf_place (i : Nat) (v : Bytes) : Memory.wf (Memory.place i v) := by
  induction v generalizing i with
  | nil => exact wf_nil
  | cons b v ih =>
    simp only [Memory.place]
    split
    · exact ih (i + 1)
    · refine wf_cons.2 ⟨fun d hd => ?_, by simpa, ih (i + 1)⟩
      have := (mem_place hd).1
      show i < d.1
      omega

/-- Reading after a whole store (R8): the string's byte, and zero outside it. -/
theorem read_place (i : Nat) (v : Bytes) (j : Nat) :
    Memory.read (Memory.place i v) j = if i ≤ j then v.getD (j - i) 0#8 else 0#8 := by
  induction v generalizing i with
  | nil => simp [Memory.place]
  | cons b v ih =>
    have key : (if i + 1 ≤ j then v.getD (j - (i + 1)) 0#8 else 0#8) =
        if i = j then 0#8 else if i ≤ j then (b :: v).getD (j - i) 0#8 else 0#8 := by
      by_cases hij : i = j
      · simp [hij]
      · by_cases hle : i ≤ j
        · rw [if_pos (by omega), if_neg hij, if_pos hle, show j - i = (j - (i + 1)) + 1 by omega, List.getD_cons_succ]
        · rw [if_neg (by omega), if_neg hij, if_neg hle]
    simp only [Memory.place]
    split
    · rename_i hb
      rw [ih, key]
      by_cases hij : i = j
      · subst hij
        simp [hb]
      · rw [if_neg hij]
    · rw [read_cons, ih, key]
      by_cases hij : i = j
      · subst hij
        simp
      · rw [if_neg hij, if_neg hij]

@[simp] theorem length_slice (m : Memory) (n : Nat) : (Memory.slice m n).length = n := by
  simp [Memory.slice]

theorem getD_slice (m : Memory) (n i : Nat) :
    (Memory.slice m n).getD i 0#8 = if i < n then Memory.read m i else 0#8 := by
  simp only [Memory.slice, List.getD_eq_getElem?_getD, List.getElem?_map]
  split
  · rename_i h
    simp [h]
  · rename_i h
    simp [List.getElem?_eq_none (by simpa using h : (List.range n).length ≤ i)]

/-- A stored string reads back (R8), where its length fits the length register. -/
theorem valid_ofBytes {v : Bytes} (h : v.length < 2 ^ 32) : (Operand.ofBytes v).valid = v := by
  have hl : (BitVec.ofNat 32 v.length).toNat = v.length := by
    simp only [BitVec.toNat_ofNat]
    exact Nat.mod_eq_of_lt h
  refine List.ext_getElem (by simpa [Operand.valid, Operand.ofBytes] using h) fun i h1 h2 => ?_
  simp only [Operand.valid, Operand.ofBytes, hl, Memory.slice, List.getElem_map, List.getElem_range, read_place,
    Nat.zero_le, if_true, Nat.sub_zero]
  simp [List.getD_eq_getElem?_getD, h2]

/-- Every operand register is in canonical form right after reset (R23). -/
theorem wf_reset (c : Config) :
    Memory.wf (State.resetWith c).key.bytes ∧ Memory.wf (State.resetWith c).aux.bytes ∧
    Memory.wf (State.resetWith c).msg.bytes ∧ Memory.wf (State.resetWith c).out.bytes :=
  ⟨wf_nil, wf_nil, wf_nil, wf_nil⟩

/-- Two canonical memories that read alike are equal. -/
theorem memory_ext {m n : Memory} (hm : Memory.wf m) (hn : Memory.wf n)
    (h : ∀ i, Memory.read m i = Memory.read n i) : m = n := by
  induction m generalizing n with
  | nil =>
    cases n with
    | nil => rfl
    | cons d n =>
      have := h d.1
      rw [read_cons, if_pos rfl, read_nil] at this
      exact absurd this.symm (wf_cons.1 hn).2.1
  | cons c m ih =>
    cases n with
    | nil =>
      have := h c.1
      rw [read_cons, if_pos rfl, read_nil] at this
      exact absurd this (wf_cons.1 hm).2.1
    | cons d n =>
      obtain ⟨hc, hc0, hm'⟩ := wf_cons.1 hm
      obtain ⟨hd, hd0, hn'⟩ := wf_cons.1 hn
      have e1 : c.1 = d.1 := by
        rcases Nat.lt_trichotomy c.1 d.1 with hlt | he | hgt
        · have h1 := h c.1
          rw [read_cons, if_pos rfl, read_eq_zero_of_lt (m := d :: n)] at h1
          · exact absurd h1 hc0
          · intro e he
            rcases List.mem_cons.1 he with rfl | he
            · exact hlt
            · have := hd e he
              omega
        · exact he
        · have h1 := h d.1
          rw [read_cons (c := d), if_pos rfl, read_eq_zero_of_lt (m := c :: m)] at h1
          · exact absurd h1.symm hd0
          · intro e he
            rcases List.mem_cons.1 he with rfl | he
            · exact hgt
            · have := hc e he
              omega
      have e2 : c.2 = d.2 := by
        have h1 := h c.1
        rwa [read_cons, if_pos rfl, read_cons, if_pos e1.symm] at h1
      have ecd : c = d := Prod.ext e1 e2
      subst ecd
      congr 1
      refine ih hm' hn' fun i => ?_
      by_cases hi : c.1 = i
      · rw [read_eq_zero_of_lt fun e he => by have := hc e he; omega,
          read_eq_zero_of_lt fun e he => by have := hd e he; omega]
      · have h1 := h i
        rwa [read_cons, read_cons, if_neg hi, if_neg hi] at h1

end Sys2Proof.Machine
end

