-- ==== Sys2Proof/Laws/State.lean ====
section
/-! SUPPORT. One lemma per field per update of State: what each shared operation leaves in each field. -/

namespace Sys2Proof.Machine

@[simp] theorem publish_cfg (r : Bytes) (s : State) : (publish r s).cfg = s.cfg := rfl
@[simp] theorem publish_key (r : Bytes) (s : State) : (publish r s).key = s.key := rfl
@[simp] theorem publish_aux (r : Bytes) (s : State) : (publish r s).aux = s.aux := rfl
@[simp] theorem publish_msg (r : Bytes) (s : State) : (publish r s).msg = s.msg := rfl
@[simp] theorem publish_out (r : Bytes) (s : State) : (publish r s).out = Operand.ofBytes r := rfl
@[simp] theorem publish_reqlen (r : Bytes) (s : State) : (publish r s).reqlen = s.reqlen := rfl
@[simp] theorem publish_nbits (r : Bytes) (s : State) : (publish r s).nbits = s.nbits := rfl
@[simp] theorem publish_iter (r : Bytes) (s : State) : (publish r s).iter = s.iter := rfl
@[simp] theorem publish_status (r : Bytes) (s : State) : (publish r s).status = statusDone false := rfl
@[simp] theorem publish_errlog (r : Bytes) (s : State) : (publish r s).errlog = s.errlog := rfl
@[simp] theorem publish_bus (r : Bytes) (s : State) : (publish r s).bus = s.bus := rfl
@[simp] theorem publish_replies (r : Bytes) (s : State) : (publish r s).replies = s.replies := rfl
@[simp] theorem publish_source (r : Bytes) (s : State) : (publish r s).source = s.source := rfl
@[simp] theorem publish_fresh (r : Bytes) (s : State) : (publish r s).fresh = s.fresh := rfl

@[simp] theorem publishKeyed_cfg (keep : Bool) (r : Bytes) (s : State) : (publishKeyed keep r s).cfg = s.cfg := rfl
@[simp] theorem publishKeyed_key (keep : Bool) (r : Bytes) (s : State) : (publishKeyed keep r s).key = keyAfter keep s.key := rfl
@[simp] theorem publishKeyed_aux (keep : Bool) (r : Bytes) (s : State) : (publishKeyed keep r s).aux = s.aux := rfl
@[simp] theorem publishKeyed_msg (keep : Bool) (r : Bytes) (s : State) : (publishKeyed keep r s).msg = s.msg := rfl
@[simp] theorem publishKeyed_out (keep : Bool) (r : Bytes) (s : State) : (publishKeyed keep r s).out = Operand.ofBytes r := rfl
@[simp] theorem publishKeyed_reqlen (keep : Bool) (r : Bytes) (s : State) : (publishKeyed keep r s).reqlen = s.reqlen := rfl
@[simp] theorem publishKeyed_nbits (keep : Bool) (r : Bytes) (s : State) : (publishKeyed keep r s).nbits = s.nbits := rfl
@[simp] theorem publishKeyed_iter (keep : Bool) (r : Bytes) (s : State) : (publishKeyed keep r s).iter = s.iter := rfl
@[simp] theorem publishKeyed_status (keep : Bool) (r : Bytes) (s : State) : (publishKeyed keep r s).status = statusDone false := rfl
@[simp] theorem publishKeyed_errlog (keep : Bool) (r : Bytes) (s : State) : (publishKeyed keep r s).errlog = s.errlog := rfl
@[simp] theorem publishKeyed_bus (keep : Bool) (r : Bytes) (s : State) : (publishKeyed keep r s).bus = s.bus := rfl
@[simp] theorem publishKeyed_replies (keep : Bool) (r : Bytes) (s : State) : (publishKeyed keep r s).replies = s.replies := rfl
@[simp] theorem publishKeyed_source (keep : Bool) (r : Bytes) (s : State) : (publishKeyed keep r s).source = s.source := rfl
@[simp] theorem publishKeyed_fresh (keep : Bool) (r : Bytes) (s : State) : (publishKeyed keep r s).fresh = s.fresh := rfl

@[simp] theorem raiseError_cfg (e : ErrorKind) (b : Bool) (s : State) : (raiseError e b s).cfg = s.cfg := rfl
@[simp] theorem raiseError_key (e : ErrorKind) (b : Bool) (s : State) : (raiseError e b s).key = keyAfter (!b) s.key := rfl
@[simp] theorem raiseError_aux (e : ErrorKind) (b : Bool) (s : State) : (raiseError e b s).aux = s.aux := rfl
@[simp] theorem raiseError_msg (e : ErrorKind) (b : Bool) (s : State) : (raiseError e b s).msg = s.msg := rfl
@[simp] theorem raiseError_out (e : ErrorKind) (b : Bool) (s : State) : (raiseError e b s).out = Operand.empty := rfl
@[simp] theorem raiseError_reqlen (e : ErrorKind) (b : Bool) (s : State) : (raiseError e b s).reqlen = s.reqlen := rfl
@[simp] theorem raiseError_nbits (e : ErrorKind) (b : Bool) (s : State) : (raiseError e b s).nbits = s.nbits := rfl
@[simp] theorem raiseError_iter (e : ErrorKind) (b : Bool) (s : State) : (raiseError e b s).iter = s.iter := rfl
@[simp] theorem raiseError_status (e : ErrorKind) (b : Bool) (s : State) : (raiseError e b s).status = statusError e := rfl
@[simp] theorem raiseError_errlog (e : ErrorKind) (b : Bool) (s : State) : (raiseError e b s).errlog = logError e s.errlog := rfl
@[simp] theorem raiseError_bus (e : ErrorKind) (b : Bool) (s : State) : (raiseError e b s).bus = s.bus := rfl
@[simp] theorem raiseError_replies (e : ErrorKind) (b : Bool) (s : State) : (raiseError e b s).replies = s.replies := rfl
@[simp] theorem raiseError_source (e : ErrorKind) (b : Bool) (s : State) : (raiseError e b s).source = s.source := rfl
@[simp] theorem raiseError_fresh (e : ErrorKind) (b : Bool) (s : State) : (raiseError e b s).fresh = s.fresh := rfl

@[simp] theorem reply_cfg (v : Word) (s : State) : (reply v s).cfg = s.cfg := rfl
@[simp] theorem reply_key (v : Word) (s : State) : (reply v s).key = s.key := rfl
@[simp] theorem reply_aux (v : Word) (s : State) : (reply v s).aux = s.aux := rfl
@[simp] theorem reply_msg (v : Word) (s : State) : (reply v s).msg = s.msg := rfl
@[simp] theorem reply_out (v : Word) (s : State) : (reply v s).out = s.out := rfl
@[simp] theorem reply_reqlen (v : Word) (s : State) : (reply v s).reqlen = s.reqlen := rfl
@[simp] theorem reply_nbits (v : Word) (s : State) : (reply v s).nbits = s.nbits := rfl
@[simp] theorem reply_iter (v : Word) (s : State) : (reply v s).iter = s.iter := rfl
@[simp] theorem reply_status (v : Word) (s : State) : (reply v s).status = s.status := rfl
@[simp] theorem reply_errlog (v : Word) (s : State) : (reply v s).errlog = s.errlog := rfl
@[simp] theorem reply_bus (v : Word) (s : State) : (reply v s).bus = s.bus := rfl
@[simp] theorem reply_replies (v : Word) (s : State) : (reply v s).replies = s.replies ++ [v] := rfl
@[simp] theorem reply_source (v : Word) (s : State) : (reply v s).source = s.source := rfl
@[simp] theorem reply_fresh (v : Word) (s : State) : (reply v s).fresh = s.fresh := rfl

@[simp] theorem performReset_cfg (s : State) : (performReset s).cfg = s.cfg := rfl
@[simp] theorem performReset_key (s : State) : (performReset s).key = Operand.empty := rfl
@[simp] theorem performReset_aux (s : State) : (performReset s).aux = Operand.empty := rfl
@[simp] theorem performReset_msg (s : State) : (performReset s).msg = Operand.empty := rfl
@[simp] theorem performReset_out (s : State) : (performReset s).out = Operand.empty := rfl
@[simp] theorem performReset_reqlen (s : State) : (performReset s).reqlen = 0#32 := rfl
@[simp] theorem performReset_nbits (s : State) : (performReset s).nbits = 0#32 := rfl
@[simp] theorem performReset_iter (s : State) : (performReset s).iter = 0#32 := rfl
@[simp] theorem performReset_status (s : State) : (performReset s).status = 0#32 := rfl
@[simp] theorem performReset_errlog (s : State) : (performReset s).errlog = 0#32 := rfl
@[simp] theorem performReset_bus (s : State) : (performReset s).bus = s.bus := rfl
@[simp] theorem performReset_replies (s : State) : (performReset s).replies = s.replies := rfl
@[simp] theorem performReset_source (s : State) : (performReset s).source = s.source := rfl
@[simp] theorem performReset_fresh (s : State) : (performReset s).fresh = s.fresh := rfl

@[simp] theorem withFetchWord_cfg (s : State) (n w : Nat) : (s.withFetchWord n w).cfg = s.cfg := rfl
@[simp] theorem withFetchWord_key (s : State) (n w : Nat) : (s.withFetchWord n w).key = s.key := rfl
@[simp] theorem withFetchWord_aux (s : State) (n w : Nat) : (s.withFetchWord n w).aux = s.aux := rfl
@[simp] theorem withFetchWord_msg (s : State) (n w : Nat) : (s.withFetchWord n w).msg = s.msg := rfl
@[simp] theorem withFetchWord_out (s : State) (n w : Nat) : (s.withFetchWord n w).out = s.out := rfl
@[simp] theorem withFetchWord_reqlen (s : State) (n w : Nat) : (s.withFetchWord n w).reqlen = s.reqlen := rfl
@[simp] theorem withFetchWord_nbits (s : State) (n w : Nat) : (s.withFetchWord n w).nbits = s.nbits := rfl
@[simp] theorem withFetchWord_iter (s : State) (n w : Nat) : (s.withFetchWord n w).iter = s.iter := rfl
@[simp] theorem withFetchWord_status (s : State) (n w : Nat) : (s.withFetchWord n w).status = clearBusy s.status := rfl
@[simp] theorem withFetchWord_errlog (s : State) (n w : Nat) : (s.withFetchWord n w).errlog = s.errlog := rfl
@[simp] theorem withFetchWord_bus (s : State) (n w : Nat) : (s.withFetchWord n w).bus = commandWrite s.cfg (BitVec.ofNat 32 (w % 2 ^ n)) s.source :: s.bus := rfl
@[simp] theorem withFetchWord_replies (s : State) (n w : Nat) : (s.withFetchWord n w).replies = s.replies := rfl
@[simp] theorem withFetchWord_source (s : State) (n w : Nat) : (s.withFetchWord n w).source = s.source := rfl
@[simp] theorem withFetchWord_fresh (s : State) (n w : Nat) : (s.withFetchWord n w).fresh = s.fresh := rfl

@[simp] theorem resetWith_cfg (c : Config) : (State.resetWith c).cfg = c := rfl
@[simp] theorem resetWith_key (c : Config) : (State.resetWith c).key = Operand.empty := rfl
@[simp] theorem resetWith_aux (c : Config) : (State.resetWith c).aux = Operand.empty := rfl
@[simp] theorem resetWith_msg (c : Config) : (State.resetWith c).msg = Operand.empty := rfl
@[simp] theorem resetWith_out (c : Config) : (State.resetWith c).out = Operand.empty := rfl
@[simp] theorem resetWith_reqlen (c : Config) : (State.resetWith c).reqlen = 0#32 := rfl
@[simp] theorem resetWith_nbits (c : Config) : (State.resetWith c).nbits = 0#32 := rfl
@[simp] theorem resetWith_iter (c : Config) : (State.resetWith c).iter = 0#32 := rfl
@[simp] theorem resetWith_status (c : Config) : (State.resetWith c).status = 0#32 := rfl
@[simp] theorem resetWith_errlog (c : Config) : (State.resetWith c).errlog = 0#32 := rfl
@[simp] theorem resetWith_bus (c : Config) : (State.resetWith c).bus = [] := rfl
@[simp] theorem resetWith_replies (c : Config) : (State.resetWith c).replies = [] := rfl
@[simp] theorem resetWith_source (c : Config) : (State.resetWith c).source = 0 := rfl
@[simp] theorem resetWith_fresh (c : Config) : (State.resetWith c).fresh = 0 := rfl

@[simp] theorem operandEmpty_bytes : Operand.empty.bytes = [] := rfl
@[simp] theorem operandEmpty_len : Operand.empty.len = 0#32 := rfl
@[simp] theorem ofBytes_bytes (v : Bytes) : (Operand.ofBytes v).bytes = Memory.place 0 v := rfl
@[simp] theorem ofBytes_len (v : Bytes) : (Operand.ofBytes v).len = BitVec.ofNat 32 v.length := rfl
@[simp] theorem keyAfter_true (k : Operand) : keyAfter true k = k := rfl
@[simp] theorem keyAfter_false (k : Operand) : keyAfter false k = Operand.empty := rfl

end Sys2Proof.Machine
end

