-- ==== Sys2Proof/Laws/Ops.lean ====
section
/-! SUPPORT. Inversion lemmas: what each shared operation and each family of commands answers, said once. A command always
answers a next state: its own effect, or the error epilogue. -/

namespace Sys2Proof.Machine

@[simp] theorem exec_nop (keep : Bool) (s : State) : exec (.nop keep) s = execNop keep s := rfl
@[simp] theorem exec_zeroize (keep : Bool) (s : State) : exec (.zeroize keep) s = execZeroize keep s := rfl
@[simp] theorem exec_out2key (keep : Bool) (s : State) : exec (.out2key keep) s = execOut2key keep s := rfl
@[simp] theorem exec_out2aux (keep : Bool) (s : State) : exec (.out2aux keep) s = execOut2aux keep s := rfl
@[simp] theorem exec_out2msg (keep : Bool) (s : State) : exec (.out2msg keep) s = execOut2msg keep s := rfl
@[simp] theorem exec_trunc (keep : Bool) (s : State) : exec (.trunc keep) s = execTrunc keep s := rfl
@[simp] theorem exec_nfold (keep : Bool) (s : State) : exec (.nfold keep) s = execNfold keep s := rfl
@[simp] theorem exec_hmacSha1 (keep : Bool) (s : State) : exec (.hmacSha1 keep) s = hmacCommand .sha1 keep s := rfl
@[simp] theorem exec_hmacMd5 (keep : Bool) (s : State) : exec (.hmacMd5 keep) s = hmacCommand .md5 keep s := rfl
@[simp] theorem exec_cmacAes128 (keep : Bool) (s : State) : exec (.cmacAes128 keep) s = cmacCommand .aes128 keep s := rfl
@[simp] theorem exec_cmacAes256 (keep : Bool) (s : State) : exec (.cmacAes256 keep) s = cmacCommand .aes256 keep s := rfl
@[simp] theorem exec_cmacCam128 (keep : Bool) (s : State) : exec (.cmacCam128 keep) s = cmacCommand .cam128 keep s := rfl
@[simp] theorem exec_cmacCam256 (keep : Bool) (s : State) : exec (.cmacCam256 keep) s = cmacCommand .cam256 keep s := rfl
@[simp] theorem exec_drDes3 (keep : Bool) (s : State) : exec (.drDes3 keep) s = drCommand .des3 keep s := rfl
@[simp] theorem exec_drAes128 (keep : Bool) (s : State) : exec (.drAes128 keep) s = drCommand .aes128 keep s := rfl
@[simp] theorem exec_drAes256 (keep : Bool) (s : State) : exec (.drAes256 keep) s = drCommand .aes256 keep s := rfl
@[simp] theorem exec_drCam128 (keep : Bool) (s : State) : exec (.drCam128 keep) s = drCommand .cam128 keep s := rfl
@[simp] theorem exec_drCam256 (keep : Bool) (s : State) : exec (.drCam256 keep) s = drCommand .cam256 keep s := rfl
@[simp] theorem exec_dkDes3 (keep : Bool) (s : State) : exec (.dkDes3 keep) s = dkCommand .des3 keep s := rfl
@[simp] theorem exec_dkAes128 (keep : Bool) (s : State) : exec (.dkAes128 keep) s = dkCommand .aes128 keep s := rfl
@[simp] theorem exec_dkAes256 (keep : Bool) (s : State) : exec (.dkAes256 keep) s = dkCommand .aes256 keep s := rfl
@[simp] theorem exec_dkCam128 (keep : Bool) (s : State) : exec (.dkCam128 keep) s = dkCommand .cam128 keep s := rfl
@[simp] theorem exec_dkCam256 (keep : Bool) (s : State) : exec (.dkCam256 keep) s = dkCommand .cam256 keep s := rfl
@[simp] theorem exec_r2kDes3 (keep : Bool) (s : State) : exec (.r2kDes3 keep) s = r2kCommand .des3 keep s := rfl
@[simp] theorem exec_r2kAes128 (keep : Bool) (s : State) : exec (.r2kAes128 keep) s = r2kCommand .aes128 keep s := rfl
@[simp] theorem exec_r2kAes256 (keep : Bool) (s : State) : exec (.r2kAes256 keep) s = r2kCommand .aes256 keep s := rfl
@[simp] theorem exec_r2kCam128 (keep : Bool) (s : State) : exec (.r2kCam128 keep) s = r2kCommand .cam128 keep s := rfl
@[simp] theorem exec_r2kCam256 (keep : Bool) (s : State) : exec (.r2kCam256 keep) s = r2kCommand .cam256 keep s := rfl
@[simp] theorem exec_pbkdf2Sha1 (keep : Bool) (s : State) : exec (.pbkdf2Sha1 keep) s = execPbkdf2Sha1 keep s := rfl
@[simp] theorem exec_conf (keep : Bool) (s : State) : exec (.conf keep) s = execConf keep s := rfl
@[simp] theorem exec_maccmp (keep : Bool) (s : State) : exec (.maccmp keep) s = execMaccmp keep s := rfl

theorem execNop_next {keep : Bool} {s t : State} (h : execNop keep s = .next t) : t = publish [] s := by
  cases h
  rfl

theorem execZeroize_next {keep : Bool} {s t : State} (h : execZeroize keep s = .next t) :
    t = { s with key := Operand.empty, aux := Operand.empty, msg := Operand.empty, out := Operand.empty,
                 reqlen := 0#32, nbits := 0#32, iter := 0#32, status := statusDone false } := by
  cases h
  rfl

theorem execOut2key_next {keep : Bool} {s t : State} (h : execOut2key keep s = .next t) :
    ((s.outOver || s.outExceeds s.cfg.keyCap) = true ∧ t = raiseError .invalidParameter false s) ∨
    ((s.outOver || s.outExceeds s.cfg.keyCap) = false ∧ t = publish [] { s with key := Operand.ofBytes s.out.valid }) := by
  simp only [execOut2key] at h
  split at h <;> cases h <;> simp_all

theorem execOut2aux_next {keep : Bool} {s t : State} (h : execOut2aux keep s = .next t) :
    ((s.outOver || s.outExceeds s.cfg.auxCap) = true ∧ t = raiseError .invalidParameter false s) ∨
    ((s.outOver || s.outExceeds s.cfg.auxCap) = false ∧ t = publish [] { s with aux := Operand.ofBytes s.out.valid }) := by
  simp only [execOut2aux] at h
  split at h <;> cases h <;> simp_all

theorem execOut2msg_next {keep : Bool} {s t : State} (h : execOut2msg keep s = .next t) :
    ((s.outOver || s.outExceeds s.cfg.msgCap) = true ∧ t = raiseError .invalidParameter false s) ∨
    ((s.outOver || s.outExceeds s.cfg.msgCap) = false ∧ t = publish [] { s with msg := Operand.ofBytes s.out.valid }) := by
  simp only [execOut2msg] at h
  split at h <;> cases h <;> simp_all

theorem execTrunc_next {keep : Bool} {s t : State} (h : execTrunc keep s = .next t) :
    (s.badTrunc = true ∧ t = raiseError .invalidParameter false s) ∨
    (s.badTrunc = false ∧ t = publish (Memory.slice s.out.bytes s.reqlen.toNat) s) := by
  simp only [execTrunc] at h
  split at h <;> cases h <;> simp_all

theorem execNfold_next {keep : Bool} {s t : State} (h : execNfold keep s = .next t) :
    (s.badNfold = true ∧ t = raiseError .invalidParameter false s) ∨
    (s.badNfold = false ∧ t = publish (nfold s.msg.valid (s.nbits.toNat / 8)) s) := by
  simp only [execNfold] at h
  split at h <;> cases h <;> simp_all

theorem hmacCommand_next {alg : HashAlg} {keep : Bool} {s t : State} (h : hmacCommand alg keep s = .next t) :
    (s.badHmac = true ∧ t = raiseError .invalidParameter (!keep) s) ∨
    (s.badHmac = false ∧ t = publishKeyed keep (hmac alg s.key.valid s.msg.valid) s) := by
  simp only [hmacCommand] at h
  split at h <;> cases h <;> simp_all

theorem cmacCommand_next {c : Cipher} {keep : Bool} {s t : State} (h : cmacCommand c keep s = .next t) :
    (s.badCmac (cipherKeySize c) = true ∧ t = raiseError .invalidParameter (!keep) s) ∨
    (s.badCmac (cipherKeySize c) = false ∧ t = publishKeyed keep (cmac s.cfg.cores c s.key.valid s.msg.valid) s) := by
  simp only [cmacCommand] at h
  split at h <;> cases h <;> simp_all

theorem drCommand_next {c : Cipher} {keep : Bool} {s t : State} (h : drCommand c keep s = .next t) :
    (s.badDerive (cipherKeySize c) = true ∧ t = raiseError .invalidParameter (!keep) s) ∨
    (s.badDerive (cipherKeySize c) = false ∧
      t = publishKeyed keep (deriveRandom s.cfg.cores c s.key.valid s.aux.valid) s) := by
  simp only [drCommand] at h
  split at h <;> cases h <;> simp_all

theorem dkCommand_next {c : Cipher} {keep : Bool} {s t : State} (h : dkCommand c keep s = .next t) :
    (s.badDerive (cipherKeySize c) = true ∧ t = raiseError .invalidParameter (!keep) s) ∨
    (s.badDerive (cipherKeySize c) = false ∧
      t = publishKeyed keep (deriveKey s.cfg.cores c s.key.valid s.aux.valid) s) := by
  simp only [dkCommand] at h
  split at h <;> cases h <;> simp_all

theorem r2kCommand_next {c : Cipher} {keep : Bool} {s t : State} (h : r2kCommand c keep s = .next t) :
    (s.badRandomToKey (cipherKeyInputSize c) = true ∧ t = raiseError .invalidParameter (!keep) s) ∨
    (s.badRandomToKey (cipherKeyInputSize c) = false ∧ t = publishKeyed keep (randomToKey c s.key.valid) s) := by
  simp only [r2kCommand] at h
  split at h <;> cases h <;> simp_all

theorem execPbkdf2Sha1_next {keep : Bool} {s t : State} (h : execPbkdf2Sha1 keep s = .next t) :
    (s.badPbkdf2 = true ∧ t = raiseError .invalidParameter (!keep) s) ∨
    (s.badPbkdf2 = false ∧
      t = publishKeyed keep (pbkdf2 s.key.valid s.aux.valid s.iter.toNat s.reqlen.toNat) s) := by
  simp only [execPbkdf2Sha1] at h
  split at h <;> cases h <;> simp_all

theorem execConf_next {keep : Bool} {s t : State} (h : execConf keep s = .next t) :
    (s.badConf = true ∧ t = raiseError .invalidParameter false s) ∨
    (s.badConf = false ∧ t = { publish (drawBytes s s.reqlen.toNat) s with fresh := s.fresh + 1 }) := by
  simp only [execConf] at h
  split at h <;> cases h <;> simp_all

theorem execMaccmp_next {keep : Bool} {s t : State} (h : execMaccmp keep s = .next t) :
    (s.auxOver = true ∧ t = raiseError .invalidParameter false s) ∨
    (s.auxOver = false ∧ s.macMismatch = true ∧ t = raiseError .integrityFailure false s) ∨
    (s.auxOver = false ∧ s.macMismatch = false ∧ t = { s with status := statusDone true }) := by
  simp only [execMaccmp] at h
  split at h
  · cases h
    simp_all
  · split at h <;> cases h <;> simp_all

/-- Every host access either stops the model or does what `act` does at its offset (R40, R44). -/
theorem atOffset_next {addr width : Nat} {act : Nat → State → Result} {s t : State}
    (h : atOffset addr width act s = .next t) :
    s.cfg.base ≤ addr ∧ addr < s.cfg.base + windowSize ∧ legalAccess (addr - s.cfg.base) width = true ∧
      act (addr - s.cfg.base) s = .next t := by
  simp only [atOffset] at h
  split at h
  · cases h
  · rename_i hw
    split at h
    · exact ⟨by omega, by omega, by assumption, h⟩
    · cases h

/-- What a legal read can do (R48, R266). -/
theorem performRead_next {off width : Nat} {s t : State} (h : performRead off width s = .next t) :
    (s.busy = true ∧ t = readBusy off width s) ∨ (s.busy = false ∧ t = reply (readAt s off) s) := by
  simp only [performRead] at h
  split at h <;> cases h <;> simp_all

/-- What a legal write can do (R48, R266). -/
theorem performWrite_next {off : Nat} {v : Word} {source : Nat} {s t : State}
    (h : performWrite off v source s = .next t) :
    (s.busy = true ∧ t = s) ∨ (s.busy = false ∧ writeAt off v source s = .next t) := by
  simp only [performWrite] at h
  split at h
  · cases h
    simp_all
  · exact .inr ⟨by simp_all, h⟩

/-- What a write to `CMD` does (R60, R66, R233). -/
theorem startCommand_next {w : Word} {s t : State} (h : startCommand w s = .next t) :
    (∃ i, decode w = .ok i ∧ exec i s = .next t) ∨
    (∃ e, decode w = .error e ∧ t = raiseError e (rejectionErasesKey e w) s) := by
  simp only [startCommand] at h
  split at h
  · exact .inl ⟨_, by assumption, h⟩
  · cases h
    exact .inr ⟨_, by assumption, rfl⟩

/-- What a step does (R14, R51). -/
theorem step_next {s t : State} (h : step s = .next t) :
    (s.bus = [] ∧ t = s) ∨ ∃ a rest, s.bus = a :: rest ∧ perform a { s with bus := rest } = .next t := by
  simp only [step] at h
  split at h
  · cases h
    exact .inl ⟨by assumption, rfl⟩
  · exact .inr ⟨_, _, by assumption, h⟩

end Sys2Proof.Machine
end

