-- ==== Sys2Proof/Laws/PerInstr.lean ====
section
/-! SUPPORT. Per-instruction family `CommandShape`: the word of each command has its reserved bits 0 and an assigned operation
code (30_encoding.md R61, R62). -/

namespace Sys2Proof.Laws.CommandShape

/-- The word of `i` has bits 31:17 zero and an `OP` of the table. -/
def Statement (i : Instr) : Prop := reservedField (encode i) = 0#15 ∧ (Op.ofCode (opField (encode i))).isSome = true

theorem nop (keep : Bool) : Statement (.nop keep) := by cases keep <;> exact ⟨rfl, rfl⟩
theorem zeroize (keep : Bool) : Statement (.zeroize keep) := by cases keep <;> exact ⟨rfl, rfl⟩
theorem out2key (keep : Bool) : Statement (.out2key keep) := by cases keep <;> exact ⟨rfl, rfl⟩
theorem out2aux (keep : Bool) : Statement (.out2aux keep) := by cases keep <;> exact ⟨rfl, rfl⟩
theorem out2msg (keep : Bool) : Statement (.out2msg keep) := by cases keep <;> exact ⟨rfl, rfl⟩
theorem trunc (keep : Bool) : Statement (.trunc keep) := by cases keep <;> exact ⟨rfl, rfl⟩
theorem nfold (keep : Bool) : Statement (.nfold keep) := by cases keep <;> exact ⟨rfl, rfl⟩
theorem hmacSha1 (keep : Bool) : Statement (.hmacSha1 keep) := by cases keep <;> exact ⟨rfl, rfl⟩
theorem hmacMd5 (keep : Bool) : Statement (.hmacMd5 keep) := by cases keep <;> exact ⟨rfl, rfl⟩
theorem cmacAes128 (keep : Bool) : Statement (.cmacAes128 keep) := by cases keep <;> exact ⟨rfl, rfl⟩
theorem cmacAes256 (keep : Bool) : Statement (.cmacAes256 keep) := by cases keep <;> exact ⟨rfl, rfl⟩
theorem cmacCam128 (keep : Bool) : Statement (.cmacCam128 keep) := by cases keep <;> exact ⟨rfl, rfl⟩
theorem cmacCam256 (keep : Bool) : Statement (.cmacCam256 keep) := by cases keep <;> exact ⟨rfl, rfl⟩
theorem drDes3 (keep : Bool) : Statement (.drDes3 keep) := by cases keep <;> exact ⟨rfl, rfl⟩
theorem drAes128 (keep : Bool) : Statement (.drAes128 keep) := by cases keep <;> exact ⟨rfl, rfl⟩
theorem drAes256 (keep : Bool) : Statement (.drAes256 keep) := by cases keep <;> exact ⟨rfl, rfl⟩
theorem drCam128 (keep : Bool) : Statement (.drCam128 keep) := by cases keep <;> exact ⟨rfl, rfl⟩
theorem drCam256 (keep : Bool) : Statement (.drCam256 keep) := by cases keep <;> exact ⟨rfl, rfl⟩
theorem dkDes3 (keep : Bool) : Statement (.dkDes3 keep) := by cases keep <;> exact ⟨rfl, rfl⟩
theorem dkAes128 (keep : Bool) : Statement (.dkAes128 keep) := by cases keep <;> exact ⟨rfl, rfl⟩
theorem dkAes256 (keep : Bool) : Statement (.dkAes256 keep) := by cases keep <;> exact ⟨rfl, rfl⟩
theorem dkCam128 (keep : Bool) : Statement (.dkCam128 keep) := by cases keep <;> exact ⟨rfl, rfl⟩
theorem dkCam256 (keep : Bool) : Statement (.dkCam256 keep) := by cases keep <;> exact ⟨rfl, rfl⟩
theorem r2kDes3 (keep : Bool) : Statement (.r2kDes3 keep) := by cases keep <;> exact ⟨rfl, rfl⟩
theorem r2kAes128 (keep : Bool) : Statement (.r2kAes128 keep) := by cases keep <;> exact ⟨rfl, rfl⟩
theorem r2kAes256 (keep : Bool) : Statement (.r2kAes256 keep) := by cases keep <;> exact ⟨rfl, rfl⟩
theorem r2kCam128 (keep : Bool) : Statement (.r2kCam128 keep) := by cases keep <;> exact ⟨rfl, rfl⟩
theorem r2kCam256 (keep : Bool) : Statement (.r2kCam256 keep) := by cases keep <;> exact ⟨rfl, rfl⟩
theorem pbkdf2Sha1 (keep : Bool) : Statement (.pbkdf2Sha1 keep) := by cases keep <;> exact ⟨rfl, rfl⟩
theorem conf (keep : Bool) : Statement (.conf keep) := by cases keep <;> exact ⟨rfl, rfl⟩
theorem maccmp (keep : Bool) : Statement (.maccmp keep) := by cases keep <;> exact ⟨rfl, rfl⟩

end Sys2Proof.Laws.CommandShape
end

