-- ==== Sys2Proof/Laws/Sequences.lean ====
section
/-! SUPPORT. What the host driver can do in one access, said once, and the small lemmas of the pseudo-operations. -/

namespace Sys2Proof.Machine

@[simp] theorem accesses_nil : accesses [] = [] := rfl
@[simp] theorem accesses_cons (a : HostAction) (as : List HostAction) : accesses (a :: as) = .access a :: accesses as := rfl
@[simp] theorem accesses_append (as bs : List HostAction) : accesses (as ++ bs) = accesses as ++ accesses bs := by
  simp [accesses]

@[simp] theorem length_readsOfO (c : Config) (n : Nat) : (readsOfO c n).length = n := by simp [readsOfO]

@[simp] theorem length_writeBytes (c : Config) (b : Bytes) : ∀ off, (writeBytes c off b).length = b.length := by
  induction b with
  | nil => intro off; rfl
  | cons x rest ih => intro off; simp [writeBytes, ih]

@[simp] theorem hostRun_zero (h : HostSystem) : hostRun 0 h = .next h := rfl

/-- A host that goes on after one access goes on after `n + 1`. -/
theorem hostRun_succ {n : Nat} {h g : HostSystem} (hs : hostStep h = .next g) : hostRun (n + 1) h = hostRun n g := by
  simp [hostRun, hs]

/-- A run of accesses is a run of the first ones and then a run of the rest. -/
theorem hostRun_add {m n : Nat} {h g : HostSystem} (hm : hostRun m h = .next g) : hostRun (m + n) h = hostRun n g := by
  induction m generalizing h with
  | zero =>
    cases hm
    rw [Nat.zero_add]
  | succ m ih =>
    rw [Nat.succ_add]
    simp only [hostRun] at hm ⊢
    split at hm
    · exact ih hm
    · cases hm
    · cases hm

/-- What one access of the host leaves: the engine after it, and the rest of the program by the last answer. -/
theorem issue_next {a : HostAction} {next : Word → List HostOp} {s : State} {g : HostSystem} (h : issue a next s = .next g) :
    step { s with bus := a :: s.bus } = .next g.engine ∧ g.todo = next (g.engine.replies.getLastD 0#32) := by
  simp only [issue] at h
  split at h <;> cases h
  exact ⟨by assumption, rfl⟩

/-- An access that the engine performs from the state it is in, with the host going on by the last answer. -/
theorem issue_of_perform {a : HostAction} {next : Word → List HostOp} {s t : State} (h : perform a s = .next t) :
    issue a next s = .next { todo := next (t.replies.getLastD 0#32), engine := t } := by
  simp [issue, step, h]

/-- What one item of a host program does (R71). -/
theorem hostStep_next {h g : HostSystem} (hs : hostStep h = .next g) :
    (h.todo = [] ∧ g = h) ∨
    (∃ a rest, h.todo = .access a :: rest ∧ step { h.engine with bus := a :: h.engine.bus } = .next g.engine ∧
      g.todo = rest) ∨
    (∃ rest, h.todo = .poll :: rest ∧
      step { h.engine with bus := .read (h.engine.cfg.base + 0x08) 4 :: h.engine.bus } = .next g.engine ∧
      g.todo = if (g.engine.replies.getLastD 0#32).getLsbD 0 then .poll :: rest else rest) ∨
    (∃ rest, h.todo = .readOut :: rest ∧
      step { h.engine with bus := .read (h.engine.cfg.base + 0x1C) 4 :: h.engine.bus } = .next g.engine ∧
      g.todo = accesses (readsOfO h.engine.cfg (g.engine.replies.getLastD 0#32).toNat) ++ rest) := by
  simp only [hostStep] at hs
  split at hs
  · cases hs
    exact .inl ⟨by assumption, rfl⟩
  · obtain ⟨h1, h2⟩ := issue_next hs
    exact .inr (.inl ⟨_, _, by assumption, h1, h2⟩)
  · obtain ⟨h1, h2⟩ := issue_next hs
    exact .inr (.inr (.inl ⟨_, by assumption, h1, h2⟩))
  · obtain ⟨h1, h2⟩ := issue_next hs
    exact .inr (.inr (.inr ⟨_, by assumption, h1, h2⟩))

end Sys2Proof.Machine
end

