-- ==== Sys2Proof/Tests/Slice0.lean ====
section
/-! SUPPORT. The model's own tests: words written from the encoding table, known answers of the spec (each test names its
source, a section T<n> of spec/95_test_vectors.md or a rule), small one-step runs, and a witness for every statement that
has hypotheses. -/

namespace Sys2Proof.Tests.Slice0

open Sys2Proof Sys2Proof.Machine

set_option Elab.async false

/-! ### Well-formedness: each check of R5 refuses a term that breaks it alone -/

theorem test_standard_config_wellFormed : Config.standard.wellFormed = true := by decide

theorem test_refuses_keyCap_low : Config.wellFormed { Config.standard with keyCap := 63, outCap := 63 } = false := by decide

theorem test_refuses_keyCap_high : Config.wellFormed { Config.standard with keyCap := 4097 } = false := by decide

theorem test_refuses_auxCap_low : Config.wellFormed { Config.standard with auxCap := 63 } = false := by decide

theorem test_refuses_auxCap_high : Config.wellFormed { Config.standard with auxCap := 4097 } = false := by decide

theorem test_refuses_msgCap_low : Config.wellFormed { Config.standard with msgCap := 63 } = false := by decide

theorem test_refuses_msgCap_high : Config.wellFormed { Config.standard with msgCap := 65537 } = false := by decide

theorem test_refuses_outCap_low : Config.wellFormed { Config.standard with outCap := 63 } = false := by decide

theorem test_refuses_outCap_high : Config.wellFormed { Config.standard with outCap := 4097 } = false := by decide

theorem test_refuses_outCap_above_keyCap : Config.wellFormed { Config.standard with keyCap := 255 } = false := by decide

theorem test_refuses_outCap_above_auxCap : Config.wellFormed { Config.standard with auxCap := 255 } = false := by decide

theorem test_refuses_outCap_above_msgCap : Config.wellFormed { Config.standard with msgCap := 255 } = false := by decide

theorem test_refuses_base_unaligned : Config.wellFormed { Config.standard with base := 0x10000 } = false := by decide

/-- The largest engine R5 allows. -/
theorem test_largest_config_wellFormed :
    Config.wellFormed { keyCap := 4096, auxCap := 4096, msgCap := 65536, outCap := 4096, base := 0x20000, cores := .external } = true := by
  decide

/-! ### Decoding: a word for every row, written field by field (R61): reserved, `KEEP`, `ALG`, `OP` -/

/-- The instruction a word decodes to, `none` where it is rejected. -/
def decoded (w : Word) : Option Instr :=
  match decode w with
  | .ok i => some i
  | .error _ => none

/-- The error a word is rejected with, `none` where it is a command. -/
def rejected (w : Word) : Option ErrorKind :=
  match decode w with
  | .ok _ => none
  | .error e => some e

theorem test_decode_housekeeping_keep0 :
    [decoded (0b000000000000000#15 ++ 0b0#1 ++ 0b00000000#8 ++ 0b00000000#8),
     decoded (0b000000000000000#15 ++ 0b0#1 ++ 0b00000000#8 ++ 0b00000001#8),
     decoded (0b000000000000000#15 ++ 0b0#1 ++ 0b00000000#8 ++ 0b00000010#8),
     decoded (0b000000000000000#15 ++ 0b0#1 ++ 0b00000000#8 ++ 0b00000011#8),
     decoded (0b000000000000000#15 ++ 0b0#1 ++ 0b00000000#8 ++ 0b00000100#8),
     decoded (0b000000000000000#15 ++ 0b0#1 ++ 0b00000000#8 ++ 0b00000101#8)] =
    [some (.nop false), some (.zeroize false), some (.out2key false), some (.out2aux false), some (.out2msg false), some (.trunc false)] := by
  decide

theorem test_decode_housekeeping_keep1 :
    [decoded (0b000000000000000#15 ++ 0b1#1 ++ 0b00000000#8 ++ 0b00000000#8),
     decoded (0b000000000000000#15 ++ 0b1#1 ++ 0b00000000#8 ++ 0b00000001#8),
     decoded (0b000000000000000#15 ++ 0b1#1 ++ 0b00000000#8 ++ 0b00000010#8),
     decoded (0b000000000000000#15 ++ 0b1#1 ++ 0b00000000#8 ++ 0b00000011#8),
     decoded (0b000000000000000#15 ++ 0b1#1 ++ 0b00000000#8 ++ 0b00000100#8),
     decoded (0b000000000000000#15 ++ 0b1#1 ++ 0b00000000#8 ++ 0b00000101#8)] =
    [some (.nop true), some (.zeroize true), some (.out2key true), some (.out2aux true), some (.out2msg true), some (.trunc true)] := by
  decide

theorem test_decode_plain_keep0 :
    [decoded (0b000000000000000#15 ++ 0b0#1 ++ 0b00000000#8 ++ 0b00010000#8),
     decoded (0b000000000000000#15 ++ 0b0#1 ++ 0b00000000#8 ++ 0b01100000#8),
     decoded (0b000000000000000#15 ++ 0b0#1 ++ 0b00000000#8 ++ 0b01110000#8)] =
    [some (.nfold false), some (.conf false), some (.maccmp false)] := by
  decide

theorem test_decode_plain_keep1 :
    [decoded (0b000000000000000#15 ++ 0b1#1 ++ 0b00000000#8 ++ 0b00010000#8),
     decoded (0b000000000000000#15 ++ 0b1#1 ++ 0b00000000#8 ++ 0b01100000#8),
     decoded (0b000000000000000#15 ++ 0b1#1 ++ 0b00000000#8 ++ 0b01110000#8)] =
    [some (.nfold true), some (.conf true), some (.maccmp true)] := by
  decide

theorem test_decode_hmac_keep0 :
    [decoded (0b000000000000000#15 ++ 0b0#1 ++ 0b00000000#8 ++ 0b00100000#8),
     decoded (0b000000000000000#15 ++ 0b0#1 ++ 0b00000001#8 ++ 0b00100000#8),
     decoded (0b000000000000000#15 ++ 0b0#1 ++ 0b00000000#8 ++ 0b01010000#8)] =
    [some (.hmacSha1 false), some (.hmacMd5 false), some (.pbkdf2Sha1 false)] := by
  decide

theorem test_decode_hmac_keep1 :
    [decoded (0b000000000000000#15 ++ 0b1#1 ++ 0b00000000#8 ++ 0b00100000#8),
     decoded (0b000000000000000#15 ++ 0b1#1 ++ 0b00000001#8 ++ 0b00100000#8),
     decoded (0b000000000000000#15 ++ 0b1#1 ++ 0b00000000#8 ++ 0b01010000#8)] =
    [some (.hmacSha1 true), some (.hmacMd5 true), some (.pbkdf2Sha1 true)] := by
  decide

theorem test_decode_cmac_keep0 :
    [decoded (0b000000000000000#15 ++ 0b0#1 ++ 0b00010001#8 ++ 0b00110000#8),
     decoded (0b000000000000000#15 ++ 0b0#1 ++ 0b00010010#8 ++ 0b00110000#8),
     decoded (0b000000000000000#15 ++ 0b0#1 ++ 0b00011001#8 ++ 0b00110000#8),
     decoded (0b000000000000000#15 ++ 0b0#1 ++ 0b00011010#8 ++ 0b00110000#8)] =
    [some (.cmacAes128 false), some (.cmacAes256 false), some (.cmacCam128 false), some (.cmacCam256 false)] := by
  decide

theorem test_decode_cmac_keep1 :
    [decoded (0b000000000000000#15 ++ 0b1#1 ++ 0b00010001#8 ++ 0b00110000#8),
     decoded (0b000000000000000#15 ++ 0b1#1 ++ 0b00010010#8 ++ 0b00110000#8),
     decoded (0b000000000000000#15 ++ 0b1#1 ++ 0b00011001#8 ++ 0b00110000#8),
     decoded (0b000000000000000#15 ++ 0b1#1 ++ 0b00011010#8 ++ 0b00110000#8)] =
    [some (.cmacAes128 true), some (.cmacAes256 true), some (.cmacCam128 true), some (.cmacCam256 true)] := by
  decide

theorem test_decode_dr_keep0 :
    [decoded (0b000000000000000#15 ++ 0b0#1 ++ 0b00010000#8 ++ 0b01000000#8),
     decoded (0b000000000000000#15 ++ 0b0#1 ++ 0b00010001#8 ++ 0b01000000#8),
     decoded (0b000000000000000#15 ++ 0b0#1 ++ 0b00010010#8 ++ 0b01000000#8),
     decoded (0b000000000000000#15 ++ 0b0#1 ++ 0b00011001#8 ++ 0b01000000#8),
     decoded (0b000000000000000#15 ++ 0b0#1 ++ 0b00011010#8 ++ 0b01000000#8)] =
    [some (.drDes3 false), some (.drAes128 false), some (.drAes256 false), some (.drCam128 false), some (.drCam256 false)] := by
  decide

theorem test_decode_dr_keep1 :
    [decoded (0b000000000000000#15 ++ 0b1#1 ++ 0b00010000#8 ++ 0b01000000#8),
     decoded (0b000000000000000#15 ++ 0b1#1 ++ 0b00010001#8 ++ 0b01000000#8),
     decoded (0b000000000000000#15 ++ 0b1#1 ++ 0b00010010#8 ++ 0b01000000#8),
     decoded (0b000000000000000#15 ++ 0b1#1 ++ 0b00011001#8 ++ 0b01000000#8),
     decoded (0b000000000000000#15 ++ 0b1#1 ++ 0b00011010#8 ++ 0b01000000#8)] =
    [some (.drDes3 true), some (.drAes128 true), some (.drAes256 true), some (.drCam128 true), some (.drCam256 true)] := by
  decide

theorem test_decode_dk_keep0 :
    [decoded (0b000000000000000#15 ++ 0b0#1 ++ 0b00010000#8 ++ 0b01000001#8),
     decoded (0b000000000000000#15 ++ 0b0#1 ++ 0b00010001#8 ++ 0b01000001#8),
     decoded (0b000000000000000#15 ++ 0b0#1 ++ 0b00010010#8 ++ 0b01000001#8),
     decoded (0b000000000000000#15 ++ 0b0#1 ++ 0b00011001#8 ++ 0b01000001#8),
     decoded (0b000000000000000#15 ++ 0b0#1 ++ 0b00011010#8 ++ 0b01000001#8)] =
    [some (.dkDes3 false), some (.dkAes128 false), some (.dkAes256 false), some (.dkCam128 false), some (.dkCam256 false)] := by
  decide

theorem test_decode_dk_keep1 :
    [decoded (0b000000000000000#15 ++ 0b1#1 ++ 0b00010000#8 ++ 0b01000001#8),
     decoded (0b000000000000000#15 ++ 0b1#1 ++ 0b00010001#8 ++ 0b01000001#8),
     decoded (0b000000000000000#15 ++ 0b1#1 ++ 0b00010010#8 ++ 0b01000001#8),
     decoded (0b000000000000000#15 ++ 0b1#1 ++ 0b00011001#8 ++ 0b01000001#8),
     decoded (0b000000000000000#15 ++ 0b1#1 ++ 0b00011010#8 ++ 0b01000001#8)] =
    [some (.dkDes3 true), some (.dkAes128 true), some (.dkAes256 true), some (.dkCam128 true), some (.dkCam256 true)] := by
  decide

theorem test_decode_r2k_keep0 :
    [decoded (0b000000000000000#15 ++ 0b0#1 ++ 0b00010000#8 ++ 0b01000010#8),
     decoded (0b000000000000000#15 ++ 0b0#1 ++ 0b00010001#8 ++ 0b01000010#8),
     decoded (0b000000000000000#15 ++ 0b0#1 ++ 0b00010010#8 ++ 0b01000010#8),
     decoded (0b000000000000000#15 ++ 0b0#1 ++ 0b00011001#8 ++ 0b01000010#8),
     decoded (0b000000000000000#15 ++ 0b0#1 ++ 0b00011010#8 ++ 0b01000010#8)] =
    [some (.r2kDes3 false), some (.r2kAes128 false), some (.r2kAes256 false), some (.r2kCam128 false), some (.r2kCam256 false)] := by
  decide

theorem test_decode_r2k_keep1 :
    [decoded (0b000000000000000#15 ++ 0b1#1 ++ 0b00010000#8 ++ 0b01000010#8),
     decoded (0b000000000000000#15 ++ 0b1#1 ++ 0b00010001#8 ++ 0b01000010#8),
     decoded (0b000000000000000#15 ++ 0b1#1 ++ 0b00010010#8 ++ 0b01000010#8),
     decoded (0b000000000000000#15 ++ 0b1#1 ++ 0b00011001#8 ++ 0b01000010#8),
     decoded (0b000000000000000#15 ++ 0b1#1 ++ 0b00011010#8 ++ 0b01000010#8)] =
    [some (.r2kDes3 true), some (.r2kAes128 true), some (.r2kAes256 true), some (.r2kCam128 true), some (.r2kCam256 true)] := by
  decide

/-- T6: the words of the document's table that are no command. -/
theorem test_decode_rejections :
    [0x00000220#32, 0x0000FF20#32, 0x00001030#32, 0x00000030#32, 0x00000140#32, 0x00001741#32, 0x00001341#32,
     0x00000150#32].map rejected = List.replicate 8 (some .unsupportedAlgorithm) ∧
    [0x00000110#32, 0x00000160#32, 0x00000170#32, 0x00000105#32, 0x00000102#32, 0x00000006#32, 0x0000000F#32,
     0x00000011#32, 0x00000021#32, 0x00000043#32, 0x00000051#32, 0x00000071#32, 0x000000FF#32, 0x00020020#32,
     0x80000000#32, 0xFFFFFFFF#32, 0x00020220#32].map rejected = List.replicate 17 (some .illegalCommand) := by
  decide

/-- R70: the example words. -/
theorem test_encode_examples :
    [encode (.nfold false), encode (.hmacSha1 false), encode (.hmacMd5 false), encode (.dkAes128 false),
     encode (.dkAes128 true), encode (.cmacCam128 false), encode (.pbkdf2Sha1 false)] =
    [0x00000010#32, 0x00000020#32, 0x00000120#32, 0x00001141#32, 0x00011141#32, 0x00001930#32, 0x00000050#32] := by
  decide

theorem test_decodeTableWord : decodeTableWord 32 0x00001A42 = some (.r2kCam256 false) ∧
    decodeTableWord 32 0x00020000 = none := by decide

/-! ### Providers (48_providers.md) -/

/-- R174, T20. -/
theorem test_sha1_abc : sha1 (natToBytes 3 0x616263) = (natToBytes 20 0xa9993e364706816aba3e25717850c26c9cd0d89d) := by decide +kernel

/-- R175, T20. -/
theorem test_md5_message_digest : md5 (natToBytes 14 0x6d65737361676520646967657374) = (natToBytes 16 0xf96b697d7cb7938d525a2f31aaf161d0) := by decide +kernel

/-- R176. -/
theorem test_aes_known_answers :
    encBlock .intended .aes128 (natToBytes 16 0x000102030405060708090a0b0c0d0e0f) (natToBytes 16 0x00112233445566778899aabbccddeeff) = (natToBytes 16 0x69c4e0d86a7b0430d8cdb78070b4c55a) ∧
    encBlock .intended .aes256 (natToBytes 32 0x000102030405060708090a0b0c0d0e0f101112131415161718191a1b1c1d1e1f) (natToBytes 16 0x00112233445566778899aabbccddeeff) = (natToBytes 16 0x8ea2b7ca516745bfeafc49904b496089) := by
  decide +kernel

/-- R177. -/
theorem test_camellia_known_answers :
    encBlock .intended .cam128 (natToBytes 16 0x0123456789abcdeffedcba9876543210) (natToBytes 16 0x0123456789abcdeffedcba9876543210) = (natToBytes 16 0x67673138549669730857065648eabe43) ∧
    encBlock .intended .cam256 (natToBytes 32 0x0123456789abcdeffedcba987654321000112233445566778899aabbccddeeff)
      (natToBytes 16 0x0123456789abcdeffedcba9876543210) = (natToBytes 16 0x9acc237dff16d76c20ef7c919e3a7509) := by
  decide +kernel

/-- R181. -/
theorem test_des3_known_answer :
    encBlock .intended .des3 (natToBytes 24 0x0123456789abcdef23456789abcdef01456789abcdef0123) (natToBytes 8 0x5468652071756963) = (natToBytes 8 0x1ccf23869d09333e) := by
  decide +kernel

/-- R179. -/
theorem test_rc4 : rc4 (natToBytes 3 0x4b6579) (natToBytes 9 0x506c61696e74657874) = (natToBytes 9 0xbbf316e8d940af0ad3) := by decide +kernel

/-! ### One step of each command -/

/-- A state after reset with these bytes in `K`, `A`, `M`, `O`. -/
def loaded (k a m o : Bytes) : State :=
  { State.reset with key := Operand.ofBytes k, aux := Operand.ofBytes a, msg := Operand.ofBytes m, out := Operand.ofBytes o }

/-- What a command left: the valid bytes of `O`, `KEYLEN`, `STATUS`. -/
def left (r : Result) : Option (Bytes × Word × Word) :=
  match r with
  | .next t => some (t.out.valid, t.key.len, t.status)
  | .fault _ => none
  | .refused _ => none

/-- A field of the next state. -/
def field {α : Type} (f : State → α) (r : Result) : Option α :=
  match r with
  | .next t => some (f t)
  | .fault _ => none
  | .refused _ => none

/-- T7. -/
theorem test_nop : left (exec (.nop false) { loaded [] [] [] (natToBytes 2 0x0102) with status := 0x00000206#32 }) =
    some ([], 0#32, 0x00000002#32) := by decide +kernel

/-- T7: everything erased, `ERRLOG` kept. -/
theorem test_zeroize :
    exec (.zeroize false) { loaded (natToBytes 16 0x000102030405060708090a0b0c0d0e0f) (natToBytes 1 0xaa) (natToBytes 2 0xbbcc) (natToBytes 1 0xdd) with reqlen := 5#32, nbits := 64#32, iter := 7#32, errlog := 0x00000004#32 } =
      .next { State.reset with status := 0x00000002#32, errlog := 0x00000004#32 } := by
  rfl

/-- T7: a longer key is overwritten entirely. -/
theorem test_out2key :
    exec (.out2key false) (loaded (List.replicate 32 0xff#8) [] [] (natToBytes 16 0x8c0a3e4839671a0f2cfbb769e2c2059e)) =
      .next { loaded (natToBytes 16 0x8c0a3e4839671a0f2cfbb769e2c2059e) [] [] [] with status := 0x00000002#32 } := by
  rfl

/-- T7. -/
theorem test_out2aux : exec (.out2aux true) (loaded (natToBytes 2 0x0a0b) (natToBytes 5 0x0102030405) [] (natToBytes 2 0x0102)) =
    .next { loaded (natToBytes 2 0x0a0b) (natToBytes 2 0x0102) [] [] with status := 0x00000002#32 } := by
  rfl

/-- T7. -/
theorem test_out2msg : exec (.out2msg false) (loaded [] [] (List.replicate 20 0x77#8) (natToBytes 4 0xdeadbeef)) =
    .next { loaded [] [] (natToBytes 4 0xdeadbeef) [] with status := 0x00000002#32 } := by
  rfl

/-- R160: the example. -/
theorem test_trunc :
    left (exec (.trunc false) { loaded [] [] [] (natToBytes 20 0x01a4b088d45628f6946614e3162948c8a43e67fe) with reqlen := 12#32 }) =
      some ((natToBytes 12 0x01a4b088d45628f6946614e3), 0#32, 0x00000002#32) := by
  decide +kernel

/-- R160: more than `O` holds. -/
theorem test_trunc_too_long :
    left (exec (.trunc false) { loaded [] [] [] (natToBytes 2 0x0102) with reqlen := 3#32 }) =
      some ([], 0#32, 0x00000206#32) := by
  decide +kernel

/-- T8. -/
theorem test_nfold :
    left (exec (.nfold false) { loaded [] [] (natToBytes 6 0x303132333435) [] with nbits := 64#32 }) =
      some ((natToBytes 8 0xbe072631276b1955), 0#32, 0x00000002#32) := by
  decide +kernel

/-- T8: `NBITS` = 12. -/
theorem test_nfold_not_bytes :
    left (exec (.nfold false) { loaded [] [] (natToBytes 1 0x41) [] with nbits := 12#32 }) =
      some ([], 0#32, 0x00000206#32) := by
  decide +kernel

/-- T9: a key of 65 bytes is hashed first; `K` kept. -/
theorem test_hmacSha1_long_key :
    left (exec (.hmacSha1 true) (loaded (List.replicate 65 1#8) [] (natToBytes 3 0x616263) [])) =
      some ((natToBytes 20 0x1f97cf31850bd679884b652b2bcd27324e4e9cbd), 65#32, 0x00000002#32) := by
  decide +kernel

/-- T9: a key of 64 bytes is used as it is; `K` erased. -/
theorem test_hmacSha1_block_key :
    left (exec (.hmacSha1 false) (loaded (List.replicate 64 1#8) [] (natToBytes 3 0x616263) [])) =
      some ((natToBytes 20 0x8667adb94b70040f6c6869969aee3d7c400835dd), 0#32, 0x00000002#32) := by
  decide +kernel

/-- T9. -/
theorem test_hmacMd5 :
    left (exec (.hmacMd5 false) (loaded (natToBytes 16 0x0123456789abcdeffedcba9876543210) [] (natToBytes 4 0x08000000) [])) =
      some ((natToBytes 16 0x1ce25211c76173b03ca5c9317dba6c55), 0#32, 0x00000002#32) := by
  decide +kernel

/-- T10: 40 bytes, padded last block. -/
theorem test_cmacAes128 :
    left (exec (.cmacAes128 true) (loaded (natToBytes 16 0x2b7e151628aed2a6abf7158809cf4f3c) [] (natToBytes 40 0x6bc1bee22e409f96e93d7e117393172aae2d8a571e03ac9c9eb76fac45af8e5130c81c46a35ce411) [])) =
      some ((natToBytes 16 0xdfa66747de9ae63030ca32611497c827), 16#32, 0x00000002#32) := by
  decide +kernel

/-- T10. -/
theorem test_cmacAes256 :
    left (exec (.cmacAes256 false) (loaded (natToBytes 32 0x000102030405060708090a0b0c0d0e0f101112131415161718191a1b1c1d1e1f) [] (natToBytes 3 0x616263) [])) =
      some ((natToBytes 16 0x3ade00807383ab0869d9a73c486a5315), 0#32, 0x00000002#32) := by
  decide +kernel

/-- T10: 32 bytes, complete last block. -/
theorem test_cmacCam128 :
    left (exec (.cmacCam128 false) (loaded (natToBytes 16 0x1dc46a8d763f4f93742bcba3387576c3) [] (natToBytes 32 0x000102030405060708090a0b0c0d0e0f101112131415161718191a1b1c1d1e1f) [])) =
      some ((natToBytes 16 0xc2dde43e1a09469d98ea5035e62df0f3), 0#32, 0x00000002#32) := by
  decide +kernel

/-- T10. -/
theorem test_cmacCam256 :
    left (exec (.cmacCam256 false) (loaded (natToBytes 32 0x000102030405060708090a0b0c0d0e0f101112131415161718191a1b1c1d1e1f) [] (natToBytes 3 0x616263) [])) =
      some ((natToBytes 16 0x1eabc89de370c16c84e62f2f0e72aeed), 0#32, 0x00000002#32) := by
  decide +kernel

/-- T10: `KEYLEN` = 32. -/
theorem test_cmacAes128_wrong_key_size :
    left (exec (.cmacAes128 false) (loaded (natToBytes 32 0x000102030405060708090a0b0c0d0e0f101112131415161718191a1b1c1d1e1f) [] (natToBytes 3 0x616263) [])) =
      some ([], 0#32, 0x00000206#32) := by
  decide +kernel

/-- T11. -/
theorem test_drDes3 :
    left (exec (.drDes3 false) (loaded (natToBytes 24 0xdce06b1f64c857a11c3db57c51899b2cc1791008ce973b92) (natToBytes 5 0x0000000155) [] [])) =
      some ((natToBytes 21 0x935079d14490a75c3093c4a6e8c3b049c71e6ee705), 0#32, 0x00000002#32) := by
  decide +kernel

/-- R129: a constant of one block is not folded. -/
theorem test_drAes128 :
    left (exec (.drAes128 true) (loaded (natToBytes 16 0x9062430c8cda3388922e6d6a509f5b7a) (natToBytes 16 0x000102030405060708090a0b0c0d0e0f) [] [])) =
      some ((natToBytes 16 0x387deaccc5bbff9460146ae2db22bbcc), 16#32, 0x00000002#32) := by
  decide +kernel

/-- T12: two blocks. -/
theorem test_drAes256 :
    left (exec (.drAes256 false) (loaded (natToBytes 32 0xfe697b52bc0d3ce14432ba036a92e65bbb52280990a2fa27883998d72af30161) (natToBytes 5 0x0000000299) [] [])) =
      some ((natToBytes 32 0xbfab388bdcb238e9f9c98d6a878304f04d30c82556375ac507a7a852790f4674), 0#32, 0x00000002#32) := by
  decide +kernel

/-- T12. -/
theorem test_drCam128 :
    left (exec (.drCam128 false) (loaded (natToBytes 16 0x57d0297298ffd9d35de5a47fb4bde24b) (natToBytes 5 0x0000000299) [] [])) =
      some ((natToBytes 16 0xd155775a209d05f02b38d42a389e5a56), 0#32, 0x00000002#32) := by
  decide +kernel

/-- T12: two CMACs. -/
theorem test_drCam256 :
    left (exec (.drCam256 false) (loaded (natToBytes 32 0xb9d6828b2056b7be656d88a123b1fac68214ac2b727ecf5f69afe0c4df2a6d2c) (natToBytes 5 0x0000000299) [] [])) =
      some ((natToBytes 32 0xe467f9a9552bc7d3155a6220af9c19220eeed4ff78b0d1e6a1544991461a9e50), 0#32, 0x00000002#32) := by
  decide +kernel

/-- T12: `AUXLEN` = 0. -/
theorem test_drAes128_empty_constant :
    left (exec (.drAes128 false) (loaded (natToBytes 16 0x9062430c8cda3388922e6d6a509f5b7a) [] [] [])) =
      some ([], 0#32, 0x00000206#32) := by
  decide +kernel

/-- T11. -/
theorem test_dkDes3 :
    left (exec (.dkDes3 true) (loaded (natToBytes 24 0xdce06b1f64c857a11c3db57c51899b2cc1791008ce973b92) (natToBytes 5 0x0000000155) [] [])) =
      some ((natToBytes 24 0x925179d04591a79b5d3192c4a7e9c289b049c71f6ee604cd), 24#32, 0x00000002#32) := by
  decide +kernel

/-- T12: the base key must have 24 bytes. -/
theorem test_dkDes3_key_size :
    left (exec (.dkDes3 true) (loaded (zeros 21) (natToBytes 5 0x0000000155) [] [])) =
      some ([], 21#32, 0x00000206#32) := by
  decide +kernel

/-- T4. -/
theorem test_dkAes128 :
    left (exec (.dkAes128 false) (loaded (natToBytes 16 0x9062430c8cda3388922e6d6a509f5b7a) (natToBytes 5 0x0000000399) [] [])) =
      some ((natToBytes 16 0x8c0a3e4839671a0f2cfbb769e2c2059e), 0#32, 0x00000002#32) := by
  decide +kernel

/-- T12. -/
theorem test_dkAes256 :
    left (exec (.dkAes256 false) (loaded (natToBytes 32 0xfe697b52bc0d3ce14432ba036a92e65bbb52280990a2fa27883998d72af30161) (natToBytes 5 0x0000000299) [] [])) =
      some ((natToBytes 32 0xbfab388bdcb238e9f9c98d6a878304f04d30c82556375ac507a7a852790f4674), 0#32, 0x00000002#32) := by
  decide +kernel

/-- T5. -/
theorem test_dkCam128 :
    left (exec (.dkCam128 false) (loaded (natToBytes 16 0x1dc46a8d763f4f93742bcba3387576c3) (natToBytes 5 0x0000000799) [] [])) =
      some ((natToBytes 16 0x6ddb5ba3a9225f56d4c747a6fe780267), 0#32, 0x00000002#32) := by
  decide +kernel

/-- T12. -/
theorem test_dkCam256 :
    left (exec (.dkCam256 false) (loaded (natToBytes 32 0xb9d6828b2056b7be656d88a123b1fac68214ac2b727ecf5f69afe0c4df2a6d2c) (natToBytes 5 0x0000000255) [] [])) =
      some ((natToBytes 32 0xfa624fa0e523993fa388aefdc67e67ebcd8c08e8a0246b1d73b0d1dd9fc582b0), 0#32, 0x00000002#32) := by
  decide +kernel

/-- T13. -/
theorem test_r2kDes3 :
    left (exec (.r2kDes3 false) (loaded (natToBytes 21 0x0102030405060708090a0b0c0d0e0f101112131415) [] [] [])) =
      some ((natToBytes 24 0x01020204040707ab08080b0b0d0d0e540e101013131515ab), 0#32, 0x00000002#32) := by
  decide +kernel

/-- T13: the weak keys are corrected silently. -/
theorem test_r2kDes3_weak :
    left (exec (.r2kDes3 false) (loaded (zeros 21) [] [] [])) =
      some ((natToBytes 24 0x01010101010101f101010101010101f101010101010101f1), 0#32, 0x00000002#32) := by
  decide +kernel

/-- T13: the identity, and `K` kept. -/
theorem test_r2kAes128 :
    left (exec (.r2kAes128 true) (loaded (natToBytes 16 0x030a11181f262d343b424950575e656c) [] [] [])) =
      some ((natToBytes 16 0x030a11181f262d343b424950575e656c), 16#32, 0x00000002#32) := by
  decide +kernel

/-- T13: the identity, and `K` kept. -/
theorem test_r2kAes256 :
    left (exec (.r2kAes256 true) (loaded (natToBytes 32 0x030a11181f262d343b424950575e656c737a81888f969da4abb2b9c0c7ced5dc) [] [] [])) =
      some ((natToBytes 32 0x030a11181f262d343b424950575e656c737a81888f969da4abb2b9c0c7ced5dc), 32#32, 0x00000002#32) := by
  decide +kernel

/-- T13: the identity, and `K` kept. -/
theorem test_r2kCam128 :
    left (exec (.r2kCam128 true) (loaded (natToBytes 16 0x030a11181f262d343b424950575e656c) [] [] [])) =
      some ((natToBytes 16 0x030a11181f262d343b424950575e656c), 16#32, 0x00000002#32) := by
  decide +kernel

/-- T13: the identity, and `K` kept. -/
theorem test_r2kCam256 :
    left (exec (.r2kCam256 true) (loaded (natToBytes 32 0x030a11181f262d343b424950575e656c737a81888f969da4abb2b9c0c7ced5dc) [] [] [])) =
      some ((natToBytes 32 0x030a11181f262d343b424950575e656c737a81888f969da4abb2b9c0c7ced5dc), 32#32, 0x00000002#32) := by
  decide +kernel

/-- T15: two turns. -/
theorem test_pbkdf2 :
    left (exec (.pbkdf2Sha1 false) { loaded (natToBytes 8 0x70617373776f7264) (natToBytes 4 0x73616c74) [] [] with iter := 2#32, reqlen := 20#32 }) =
      some ((natToBytes 20 0xea6c014dc72d6f8ccd1ed92ace1d41f0d8de8957), 0#32, 0x00000002#32) := by
  decide +kernel

/-- T15: the second block cut to 12 bytes. -/
theorem test_pbkdf2_two_blocks :
    left (exec (.pbkdf2Sha1 true) { loaded (natToBytes 8 0x70617373776f7264) (natToBytes 21 0x415448454e412e4d49542e4544557261656275726e) [] [] with iter := 1#32, reqlen := 32#32 }) =
      some ((natToBytes 32 0xcdedb5281bb2f801565a1122b25635150ad1f7a04bb9f3a333ecc0e2e1f70837), 8#32, 0x00000002#32) := by
  decide +kernel

/-- T16: the length, the flags, and one draw taken; the bytes are free. -/
theorem test_conf :
    field (fun t => (t.out.len, t.status, t.fresh)) (exec (.conf false) { State.reset with reqlen := 16#32 }) =
      some (16#32, 0x00000002#32, 1) := by
  decide +kernel

/-- R152: above `OUT_CAP`. -/
theorem test_conf_too_long :
    left (exec (.conf false) { State.reset with reqlen := 257#32 }) = some ([], 0#32, 0x00000206#32) := by
  decide +kernel

/-- R162: the example. -/
theorem test_maccmp_match :
    left (exec (.maccmp false) (loaded [] (natToBytes 12 0x01a4b088d45628f6946614e3) [] (natToBytes 12 0x01a4b088d45628f6946614e3))) =
      some ((natToBytes 12 0x01a4b088d45628f6946614e3), 0#32, 0x0000000A#32) := by
  decide +kernel

/-- R162: the last byte differs. -/
theorem test_maccmp_mismatch :
    left (exec (.maccmp false) (loaded [] (natToBytes 12 0x01a4b088d45628f6946614e2) [] (natToBytes 12 0x01a4b088d45628f6946614e3))) =
      some ([], 0#32, 0x00000306#32) := by
  decide +kernel

/-- T14: a weak and a semi-weak key of the table, and R127's example. -/
theorem test_third :
    third (natToBytes 7 0xffffffffffffff) = (natToBytes 8 0xfefefefefefefe0e) ∧ third (natToBytes 7 0x1e001e000e000e) = (natToBytes 8 0x1f011f010e010ef1) ∧
    third (natToBytes 7 0x0123456789abcd) = (natToBytes 8 0x0123456789abcdfe) := by
  decide +kernel

/-! ### One step of the machine -/

/-- The state after reset with these host actions pending. -/
def pending (acts : List HostAction) : State := { State.reset with bus := acts }

theorem test_reset_runs_the_first_command :
    step (State.reset.withFetchWord 32 0x00000001) = .next { State.reset with status := 0x00000002#32 } := by rfl

theorem test_step_waits : step State.reset = .next State.reset := by rfl

/-- R23: `ID`. -/
theorem test_read_id : step (pending [.read 0 4]) = .next { State.reset with replies := [0x4B480007#32] } := by rfl

/-- R43, R46: a written key byte is stored, and not read back. -/
theorem test_key_byte :
    field (fun t => (t.key.bytes, t.key.len)) (step (pending [.write 0x1005 1 0x1ff#32 0])) = some ([(5, 0xff#8)], 0#32) ∧
    field (fun t => t.replies)
      (step { State.reset with bus := [.read 0x1005 1], key := { bytes := [(5, 0xff#8)], len := 0#32 } }) =
      some [0#32] := by
  decide +kernel

/-- R44: a 16-bit access to a control register; R40: an address outside the window. -/
theorem test_stops :
    step (pending [.read 0x08 2]) = .refused (.illegalAccess 8 2) ∧
    step (pending [.read 0x20000 1]) = .fault (.outsideWindow 0x20000) := by
  exact ⟨rfl, rfl⟩

/-- R17: writing 1 to one bit of `ERRLOG`. -/
theorem test_errlog_clear :
    step { State.reset with errlog := 0x1E#32, bus := [.write 0x0C 4 0x04#32 0] } =
      .next { State.reset with errlog := 0x1A#32 } := by rfl

/-- R151, R261: the draw is the one that came with the command, from the state after reset too. -/
theorem test_conf_source :
    field (fun t => t.source) (step { State.reset with reqlen := 1#32, bus := [commandWrite Config.standard 0x60#32 7] }) =
      some 7 := by
  decide +kernel

/-- What a host run leaves to do, and the engine's replies. -/
def hostLeft (r : Host.Outcome HostSystem Fault Refusal) : Option (List HostOp × List Word) :=
  match r with
  | .next h => some (h.todo, h.engine.replies)
  | .fault _ => none
  | .refused _ => none

/-- R71: the poll repeats while `BUSY` = 1. -/
theorem test_poll_repeats :
    hostLeft (hostRun 2 { todo := [.poll], engine := { State.reset with status := 1#32 } }) =
      some ([.poll], [1#32, 1#32]) := by
  decide +kernel

/-- R71: `RDO` reads `OUTLEN` and that many bytes; `CMD TRUNC` that fails leaves `OUTLEN` = 0, and `RDO` reads only that. -/
theorem test_rdo :
    hostLeft (hostRun 9 { todo := rdo, engine := loaded [] [] [] [0x0a#8, 0x0b#8] }) =
      some ([], [2#32, 0x0a#32, 0x0b#32]) ∧
    hostLeft (hostRun 9 { todo := cmdPlain Config.standard .trunc ++ rdo
                          engine := { loaded [] [] [] [0x0a#8, 0x0b#8] with reqlen := 3#32 } }) =
      some ([], [0x00000206#32, 0#32]) := by
  decide +kernel

/-- R210: the salts of the Camellia ciphers, in the order the document states and in that of the fixtures. -/
theorem test_camellia_salts :
    statedSalt .cam128 [0x52#8] [0x50#8] = [0x52#8, 0x50#8] ++ (natToBytes 20 0x63616d656c6c69613132382d6374732d636d6163) ∧
    camelliaSaltFixture .cam256 [0x52#8] [0x50#8] = (natToBytes 20 0x63616d656c6c69613235362d6374732d636d6163) ++ [0x00#8, 0x52#8, 0x50#8] ∧
    statedSalt .aes256 [0x52#8] [0x50#8] = [0x52#8, 0x50#8] := by
  decide

theorem test_reset_ready : State.reset.busy = false := by decide

theorem test_reset_memories : Memory.wf State.reset.key.bytes ∧ Memory.wf State.reset.aux.bytes ∧
    Memory.wf State.reset.msg.bytes ∧ Memory.wf State.reset.out.bytes := by decide

/-! ### Witnesses: the hypotheses of each statement that has any are met together, each clause at a boundary value -/

/-- A state after reset with these lengths and parameters, every operand byte zero. -/
def sized (k a m o req nb it : Nat) : State :=
  { State.reset with
    key := { bytes := [], len := BitVec.ofNat 32 k }, aux := { bytes := [], len := BitVec.ofNat 32 a }
    msg := { bytes := [], len := BitVec.ofNat 32 m }, out := { bytes := [], len := BitVec.ofNat 32 o }
    reqlen := BitVec.ofNat 32 req, nbits := BitVec.ofNat 32 nb, iter := BitVec.ofNat 32 it }

/-- An empty operand list meets any capacity. -/
theorem fits_nil (n : Word) (cap : Nat) : Operand.fits { bytes := [], len := n } cap :=
  ⟨⟨List.Pairwise.nil, by simp⟩, by simp⟩

/-- The invariant holds right after reset and with any lengths the host may have written. -/
theorem inv_sized (k a m req nb it : Nat) : (sized k a m 0 req nb it).Inv where
  cfg := show Config.standard.wellFormed = true by decide
  key := fits_nil _ _
  aux := fits_nil _ _
  msg := fits_nil _ _
  out := fits_nil _ _
  outLen := Nat.zero_le _
  outTail := by simp [sized]
  status := show 0#32 ∈ legalStatus by decide
  errlog := show 0#32 &&& ~~~errlogMask = 0#32 by decide

theorem witness_MovesTransferTheResult :
    let s := sized 0 0 0 256 0 0 0
    let u := sized 0 0 0 257 0 0 0
    (s.out.len.toNat ≤ s.cfg.outCap ∧ s.out.len.toNat ≤ s.cfg.keyCap ∧ s.out.len.toNat ≤ s.cfg.auxCap ∧
      s.out.len.toNat ≤ s.cfg.msgCap) ∧ u.cfg.outCap < u.out.len.toNat := by
  decide

theorem witness_TruncKeepsTheLeadingBytes :
    ((sized 0 0 0 20 20 0 0).reqlen.toNat ≤ (sized 0 0 0 20 20 0 0).out.len.toNat) ∧
    ((sized 0 0 0 20 21 0 0).out.len.toNat < (sized 0 0 0 20 21 0 0).reqlen.toNat) ∧
    ((sized 0 0 0 0 0 0 0).Inv ∧ (sized 0 0 0 0 0 0 0).reqlen = (sized 0 0 0 0 0 0 0).out.len) :=
  ⟨by decide, by decide, inv_sized 0 0 0 0 0 0, rfl⟩

theorem witness_NfoldWritesTheFold :
    let s := sized 0 0 4096 0 0 2048 0
    s.msg.len.toNat ≤ s.cfg.msgCap ∧ s.msg.len ≠ 0#32 ∧ s.nbits ≠ 0#32 ∧ s.nbits.toNat % 8 = 0 ∧
    s.nbits.toNat / 8 ≤ s.cfg.outCap := by
  decide

theorem witness_HmacWritesTheMac :
    let s := sized 256 0 4096 0 0 0 0
    s.key.len.toNat ≤ s.cfg.keyCap ∧ s.msg.len.toNat ≤ s.cfg.msgCap := by
  decide

theorem witness_CmacWritesTheMac :
    ∀ n ∈ [16, 32], let s := sized n 0 4096 0 0 0 0
      s.key.len.toNat ≤ s.cfg.keyCap ∧ s.msg.len.toNat ≤ s.cfg.msgCap ∧ s.key.len.toNat = n := by
  decide

theorem witness_DrWritesRandomBytes :
    ∀ n ∈ [24, 16, 32], let s := sized n 256 0 0 0 0 0
      s.key.len.toNat ≤ s.cfg.keyCap ∧ s.aux.len.toNat ≤ s.cfg.auxCap ∧ s.key.len.toNat = n ∧ s.aux.len ≠ 0#32 := by
  decide

theorem witness_DkWritesTheDerivedKey :
    ∀ n ∈ [24, 16, 32], let s := sized n 1 0 0 0 0 0
      s.key.len.toNat ≤ s.cfg.keyCap ∧ s.aux.len.toNat ≤ s.cfg.auxCap ∧ s.key.len.toNat = n ∧ s.aux.len ≠ 0#32 := by
  decide

theorem witness_RandomToKeyWritesTheKey :
    ∀ n ∈ [21, 16, 32], let s := sized n 0 0 0 0 0 0
      s.key.len.toNat ≤ s.cfg.keyCap ∧ s.key.len.toNat = n := by
  decide

theorem witness_PbkdfWritesDerivedBytes :
    let s := sized 256 256 0 0 256 0 1
    s.key.len.toNat ≤ s.cfg.keyCap ∧ s.aux.len.toNat ≤ s.cfg.auxCap ∧ s.iter ≠ 0#32 ∧ s.reqlen ≠ 0#32 ∧
    s.reqlen.toNat ≤ s.cfg.outCap := by
  decide

theorem witness_ConfWritesTheNextDraw :
    (sized 0 0 0 0 256 0 0).reqlen.toNat ≤ (sized 0 0 0 0 256 0 0).cfg.outCap := by
  decide

theorem witness_MaccmpComparesEveryByte :
    let bad := sized 0 257 0 20 0 0 0
    let s := sized 0 256 0 256 0 0 0
    let d := { sized 0 256 0 256 0 0 0 with aux := { bytes := [(255, 1#8)], len := 256#32 } }
    bad.cfg.auxCap < bad.aux.len.toNat ∧
    (s.aux.len.toNat ≤ s.cfg.auxCap ∧ s.out.len ≠ 0#32 ∧ s.out.len = s.aux.len ∧
      ∀ i, i < s.out.len.toNat → Memory.read s.out.bytes i = Memory.read s.aux.bytes i) ∧
    (State.reset.aux.len.toNat ≤ State.reset.cfg.auxCap ∧ State.reset.out.len = 0#32) ∧
    (d.aux.len.toNat ≤ d.cfg.auxCap ∧
      ∃ i, i < d.out.len.toNat ∧ Memory.read d.out.bytes i ≠ Memory.read d.aux.bytes i) :=
  ⟨by decide, ⟨by decide, by decide, by decide, fun _ _ => rfl⟩, by decide, by decide, 255, by decide, by decide⟩

/-- Each cause of R234 alone, at its boundary: the rest of the state is one the command accepts. -/
theorem witness_InvalidParameterCausesAreExact :
    (sized 0 0 0 256 257 0 0).badTrunc = true ∧ (sized 0 0 0 257 0 0 0).outOver = true ∧
    [sized 0 0 4097 0 0 8 0, sized 0 0 0 0 0 8 0, sized 0 0 1 0 0 0 0, sized 0 0 1 0 0 12 0,
     sized 0 0 1 0 0 2056 0].map State.badNfold = List.replicate 5 true ∧
    [sized 257 0 0 0 0 0 0, sized 0 0 4097 0 0 0 0].map State.badHmac = [true, true] ∧
    [sized 16 0 4097 0 0 0 0, sized 15 0 0 0 0 0 0].map (fun s => s.badCmac 16) = [true, true] ∧
    [sized 16 257 0 0 0 0 0, sized 17 1 0 0 0 0 0, sized 16 0 0 0 0 0 0].map (fun s => s.badDerive 16) =
      List.replicate 3 true ∧
    (sized 20 0 0 0 0 0 0).badRandomToKey 21 = true ∧
    [sized 257 0 0 0 1 0 1, sized 0 257 0 0 1 0 1, sized 0 0 0 0 1 0 0, sized 0 0 0 0 0 0 1,
     sized 0 0 0 0 257 0 1].map State.badPbkdf2 = List.replicate 5 true ∧
    (sized 0 0 0 0 257 0 0).badConf = true ∧ (sized 0 257 0 0 0 0 0).auxOver = true ∧
    (∃ t, exec (.conf false) (sized 0 0 0 0 256 0 0) = .next t) := by
  refine ⟨by decide, by decide, by decide, by decide, by decide, by decide, by decide, by decide, by decide,
    by decide, _, rfl⟩

theorem witness_RejectedWordTakesTheEpilogue :
    (pending [.write 0x04 4 0x00020020#32 0]).busy = false ∧ rejected 0x00020020#32 = some .illegalCommand ∧
    (pending [.write 0x04 4 0x0000FF20#32 0]).busy = false ∧ rejected 0x0000FF20#32 = some .unsupportedAlgorithm := by
  decide

theorem witness_ErrorPriorityExamples :
    let s := { sized 257 0 0 0 0 0 0 with bus := [.write 0x04 4 0x00000220#32 0] }
    let u := { sized 0 257 0 0 0 0 0 with bus := [.write 0x04 4 0x00000070#32 0] }
    s.busy = false ∧ s.bus = .write (s.cfg.base + 0x04) 4 0x00000220#32 0 :: [] ∧ s.cfg.keyCap < s.key.len.toNat ∧
    u.busy = false ∧ u.bus = .write (u.cfg.base + 0x04) 4 0x00000070#32 0 :: [] ∧ u.cfg.auxCap < u.aux.len.toNat := by
  decide

theorem witness_EveryCommandWordFinishes :
    (pending [.write 0x04 4 0xFFFFFFFF#32 0]).busy = false ∧
    (pending [.write 0x04 4 0xFFFFFFFF#32 0]).bus =
      .write ((pending [.write 0x04 4 0xFFFFFFFF#32 0]).cfg.base + 0x04) 4 0xFFFFFFFF#32 0 :: [] := by
  decide

theorem witness_CommandRewritesStatus :
    (∃ t, exec (.maccmp false) (sized 0 1 0 1 0 0 0) = .next t ∧ t.matched = true) ∧
    (∃ t, exec (.maccmp false) State.reset = .next t ∧ t.err = true) :=
  ⟨⟨_, rfl, by decide⟩, ⟨_, rfl, by decide⟩⟩

theorem witness_ErrorsPublishNothing :
    (∃ t, exec (.conf false) (sized 0 0 0 0 257 0 0) = .next t ∧ t.err = true) ∧
    (∃ t, exec (.nop false) State.reset = .next t ∧ t.err = false) :=
  ⟨⟨_, rfl, by decide⟩, ⟨_, rfl, by decide⟩⟩

theorem witness_OtherCommandsIgnoreKeep : ∃ t, exec (.nop true) State.reset = .next t := ⟨_, rfl⟩

theorem witness_CommandsLeaveOtherRegisters :
    (∃ t, exec (.nop false) State.reset = .next t) ∧ (∀ keep, Instr.nop false ≠ .out2aux keep ∧ Instr.nop false ≠ .zeroize keep) ∧
    (∀ keep, Instr.nop false ≠ .out2msg keep ∧ Instr.nop false ≠ .conf keep) :=
  ⟨⟨_, rfl⟩, by decide, by decide⟩

theorem witness_EveryStepKeepsTheInvariant :
    (sized 1 2 3 0 4 5 6).Inv ∧ ∃ t, step (sized 1 2 3 0 4 5 6) = .next t :=
  ⟨inv_sized 1 2 3 4 5 6, _, rfl⟩

theorem witness_ResetMeetsTheInvariant : Config.standard.wellFormed = true := by decide

theorem witness_LegalActionsNeverStopTheEngine :
    ∀ a ∈ (pending [.write 0x04 4 0#32 0, .read 0x1FFFF 1, .read 0xFFE 2, .reset]).bus,
      HostAction.legal Config.standard a = true := by
  decide

theorem witness_ErrorLogIsSticky :
    ∃ t, step { State.reset with errlog := 0x10#32, bus := [.write 0x0C 4 0x10#32 0] } = .next t ∧
      (0x10#32).getLsbD 4 = true ∧ t.errlog.getLsbD 4 = false :=
  ⟨_, rfl, by decide, by decide⟩

theorem witness_HostAccessesRevealNoKeyBytes :
    (∀ (w : Word) (e : Nat), (pending [.read 0x10FF 1]).bus.head? ≠
      some (.write ((pending [.read 0x10FF 1]).cfg.base + 0x04) 4 w e)) ∧
    (∃ t, step (pending [.read 0x10FF 1]) = .next t) ∧
    step (pending [.read 0x20000 1]) = .fault (.outsideWindow 0x20000) ∧
    step (pending [.read 0x1000 4]) = .refused (.illegalAccess 0x1000 4) :=
  ⟨fun _ _ => by simp [pending], ⟨_, rfl⟩, rfl, rfl⟩

theorem witness_HostCannotWriteTheResult :
    (∀ (w : Word) (e : Nat), (pending [.write 0x3000 1 7#32 0]).bus.head? ≠
      some (.write ((pending [.write 0x3000 1 7#32 0]).cfg.base + 0x04) 4 w e)) ∧
    (pending [.write 0x3000 1 7#32 0]).bus.head? ≠ some .reset ∧ ∃ t, step (pending [.write 0x3000 1 7#32 0]) = .next t :=
  ⟨fun _ _ => by simp [pending], by simp [pending], _, rfl⟩

theorem witness_StepRunsTheDecodedCommand :
    (pending [.write 0x04 4 0x00001A42#32 0]).busy = false ∧
    (pending [.write 0x04 4 0x00001A42#32 0]).bus =
      .write ((pending [.write 0x04 4 0x00001A42#32 0]).cfg.base + 0x04) 4 0x00001A42#32 0 :: [] ∧
    decoded 0x00001A42#32 = some (.r2kCam256 false) := by
  decide

theorem witness_EngineWaitsForTheNextWrite :
    State.reset.bus = [] ∧ State.reset.busy = false ∧ 0x00011A42 < 2 ^ 32 ∧
    decoded (BitVec.ofNat 32 0x00011A42) = some (.r2kCam256 true) := by
  decide

/-- Every clause of the bus statements: the first and the last offset of its range. -/
theorem witness_ControlRegisterMap :
    ∀ a ∈ [HostAction.read 0x00 4, .read 0x28 4, .read 0x2C 4, .read 0xFC 4, .write 0x00 4 1#32 0, .write 0x28 4 1#32 0,
           .write 0x2C 4 1#32 0, .write 0xFC 4 1#32 0, .write 0x04 4 0#32 0],
      (pending [a]).busy = false ∧ (pending [a]).bus = a :: [] ∧ (pending [a]).cfg.base = 0 := by
  decide

theorem witness_WindowWriteSetsOneByte :
    ∀ a ∈ [HostAction.write 0x1000 1 1#32 0, .write 0x10FF 1 1#32 0, .write 0x20FF 1 1#32 0, .write 0x10FFF 1 1#32 0],
      (pending [a]).busy = false ∧ (pending [a]).cfg.wellFormed = true ∧ (pending [a]).bus = a :: [] ∧
      (pending [a]).cfg.base = 0 ∧ 0xFF < (pending [a]).cfg.keyCap ∧ 0xFF < (pending [a]).cfg.auxCap ∧
      0xFFF < (pending [a]).cfg.msgCap ∧ Memory.wf (pending [a]).key.bytes ∧ Memory.wf (pending [a]).aux.bytes ∧
      Memory.wf (pending [a]).msg.bytes := by
  decide

theorem witness_WindowReadReturnsTheByte :
    ∀ a ∈ [HostAction.read 0x2000 1, .read 0x20FF 1, .read 0x30FF 1, .read 0x10FFF 1],
      (pending [a]).busy = false ∧ (pending [a]).cfg.wellFormed = true ∧ (pending [a]).bus = a :: [] ∧
      (pending [a]).cfg.base = 0 ∧ 0xFF < (pending [a]).cfg.auxCap ∧ 0xFF < (pending [a]).cfg.outCap ∧
      0xFFF < (pending [a]).cfg.msgCap := by
  decide

theorem witness_KeyWindowReadsZero :
    ∀ a ∈ [HostAction.read 0x1000 1, .read 0x1FFF 1, .read 0x10 4],
      (pending [a]).busy = false ∧ (pending [a]).bus = a :: [] ∧ (pending [a]).cfg.base = 0 := by
  decide

theorem witness_BeyondCapacityReadsZeroAndIgnoresWrites :
    ∀ off ∈ [0x1100, 0x1FFF, 0x2100, 0x2FFF, 0x3100, 0x3FFF, 0x11000, 0x1FFFF, 0x100, 0xFFF, 0x4000, 0xFFFF],
      (pending [.read off 1]).busy = false ∧
      ((0x1000 + 256 ≤ off ∧ 0x1000 ≤ off ∧ off < 0x2000) ∨ (0x2000 + 256 ≤ off ∧ 0x2000 ≤ off ∧ off < 0x3000) ∨
        (0x3000 + 256 ≤ off ∧ 0x3000 ≤ off ∧ off < 0x4000) ∨ (0x10000 + 4096 ≤ off ∧ 0x10000 ≤ off ∧ off < 0x20000) ∨
        (0x100 ≤ off ∧ off < 0x1000) ∨ (0x4000 ≤ off ∧ off < 0x10000)) := by
  decide

theorem witness_IllegalWidthsAreRefused :
    ∀ p ∈ [(0x00, 1), (0xFE, 4), (0xFF, 1), (0x1000, 4), (0x3FFF, 2), (0x10000, 2), (0x1FFFF, 4)],
      (p.1 < 0x100 ∧ (p.2 ≠ 4 ∨ p.1 % 4 ≠ 0)) ∨ (0x1000 ≤ p.1 ∧ p.1 < 0x4000 ∧ p.2 ≠ 1) ∨
        (0x10000 ≤ p.1 ∧ p.1 < 0x20000 ∧ p.2 ≠ 1) := by
  decide

theorem witness_AccessOutsideTheWindowFaults :
    let s := { State.reset with cfg := { Config.standard with base := 0x20000 }, bus := [.read 0x1FFFF 1] }
    s.bus = .read 0x1FFFF 1 :: [] ∧ (0x1FFFF < s.cfg.base ∨ s.cfg.base + 0x20000 ≤ 0x1FFFF) ∧
    (0x40000 < s.cfg.base ∨ s.cfg.base + 0x20000 ≤ 0x40000) := by
  decide

theorem witness_BusyEngineIgnoresWrites :
    let s := { State.reset with status := 1#32, bus := [.read 0x08 4] }
    s.busy = true ∧ 0x1FFFF < 0x20000 ∧ legalAccess 0x08 4 = true ∧ legalAccess 0x1FFFF 1 = true ∧
    s.bus = .read (s.cfg.base + 0x08) 4 :: [] := by
  decide

theorem witness_ResetInputRestoresEverything : (pending [.reset]).bus = .reset :: [] := rfl

theorem witness_LoadSequencesLoad (rest : List HostAction) :
    let s := pending (ldm Config.standard (zeros 4096) ++ rest)
    s.busy = false ∧ s.cfg.wellFormed = true ∧ (zeros 4096).length ≤ s.cfg.msgCap ∧
    (zeros 256).length ≤ s.cfg.keyCap ∧ (zeros 256).length ≤ s.cfg.auxCap ∧ Memory.wf s.key.bytes ∧
    Memory.wf s.aux.bytes ∧ Memory.wf s.msg.bytes ∧ s.bus = ldm s.cfg (zeros 4096) ++ rest :=
  ⟨test_reset_ready, test_standard_config_wellFormed, (length_zeros 4096).le, (length_zeros 256).le,
    (length_zeros 256).le, test_reset_memories.1, test_reset_memories.2.1, test_reset_memories.2.2.1, rfl⟩

theorem witness_NfoldRotationMovesBits : 7 < 8 * [0x01#8].length := by decide

theorem witness_OnesComplementSum : 1 ≤ 1 ∧ [0xff#8].length = 1 := by decide

theorem witness_NfoldSumsRotatedCopies :
    [0x61#8, 0x62#8] ≠ [] ∧ 1 ≤ 1 ∧ [0x61#8, 0x62#8].length = 2 ∧ [0x61#8, 0x62#8].length % 1 = 0 ∧
    2 < Nat.lcm [0x61#8, 0x62#8].length 3 / [0x61#8, 0x62#8].length ∧ 15 < 8 * [0x61#8, 0x62#8].length := by decide

theorem witness_HmacKeyRule : (zeros 64).length ≤ 64 ∧ 64 < (zeros 65).length := by decide

theorem witness_CmacDoublingShifts : (zeros 16).length = 16 := by decide

theorem witness_CmacChainsTheBlocks :
    (∀ b : Bytes, ((fun _ => zeros 16) b : Bytes).length = 16) ∧ (zeros 16).length = 16 ∧ (zeros 0).length < 16 ∧
    (zeros 15).length < 16 ∧ 0 < (zeros 1).length ∧ (∀ b ∈ [zeros 16, zeros 16], b.length = 16) :=
  ⟨fun _ => length_zeros 16, by decide, by decide, by decide, by decide, by decide⟩

theorem witness_DerivedSizesAndRandomToKey :
    (Cipher.des3, 21, 24) ∈ [(Cipher.des3, 21, 24)] ∧ Cipher.aes128 ≠ .des3 ∧ (zeros 21).length = 21 := by decide

theorem witness_ThirdIsOddAndNotWeak :
    (natToBytes 7 0x0123456789abcd).length = 7 ∧ expandThird (natToBytes 7 0x0123456789abcd) ∉ weakKeys ∧
    (zeros 7).length = 7 ∧ expandThird (zeros 7) ∈ weakKeys := by decide

theorem witness_ExternalCoresPermuteBlocks : (zeros 8).length = 8 ∧ (zeros 16).length = 16 := by decide

theorem witness_PbkdfBlocks : 1 ≤ 1 ∧ 0 ≤ 20 ∧ 20 ≤ 20 ∧ 1 ≤ 2 ∧ 20 * (2 - 1) < 21 := by decide

theorem witness_HostPollsAndReadsOut :
    (∃ t, step { State.reset with bus := HostAction.read 0 4 :: State.reset.bus } = .next t) ∧
    { State.reset with status := 1#32 }.busy = true ∧
    (sized 0 0 0 256 0 0 0).busy = false ∧ (sized 0 0 0 256 0 0 0).cfg.wellFormed = true ∧
    (sized 0 0 0 256 0 0 0).out.len.toNat ≤ (sized 0 0 0 256 0 0 0).cfg.outCap ∧
    (∃ t, exec (.conf false) (sized 0 0 0 0 257 0 0) = .next t ∧ t.err = true) :=
  ⟨⟨_, rfl⟩, by decide, by decide, by decide, by decide, _, rfl, by decide⟩



end Sys2Proof.Tests.Slice0
end

section
/-! PROOFS. The invariant of the engine (10_state.md R11, R13, R16, R17): every step keeps it. First the sizes of the
results the commands publish, none of which exceeds `OUT_CAP`; then one rule per state update, saying that it keeps the
invariant; then the commands, the host's accesses and the step, each assembled from those rules. -/

namespace Sys2Proof.Machine

/-! ### The sizes of results -/

@[simp] theorem length_hash (alg : HashAlg) (m : Bytes) : (hash alg m).length = hashOutputSize alg := by
  cases alg
  case sha1 => simp [hash, sha1, hashOutputSize]
  case md5 => simp [hash, md5, hashOutputSize]

@[simp] theorem length_hmac (alg : HashAlg) (key msg : Bytes) : (hmac alg key msg).length = hashOutputSize alg :=
  length_hash alg _

@[simp] theorem length_cmac (cores : Cores) (c : Cipher) (key msg : Bytes) :
    (cmac cores c key msg).length = cipherBlockSize c :=
  length_encBlock cores c key _

@[simp] theorem length_ocadd (n : Nat) (a b : Bytes) : (ocadd n a b).length = n := length_natToBytes n _

theorem length_foldl_ocadd (n : Nat) (chunks : List Bytes) {acc : Bytes} (h : acc.length = n) :
    (chunks.foldl (ocadd n) acc).length = n := by
  induction chunks generalizing acc with
  | nil => exact h
  | cons chunk chunks ih => exact ih (length_ocadd n acc chunk)

@[simp] theorem length_nfold (b : Bytes) (n : Nat) : (nfold b n).length = n :=
  length_foldl_ocadd n _ (length_zeros n)

theorem length_deriveRandom_le (cores : Cores) (c : Cipher) (key const : Bytes) :
    (deriveRandom cores c key const).length ≤ cipherKeyInputSize c := by
  unfold deriveRandom
  split
  · exact List.length_take_le _ _
  · exact List.length_take_le _ _

@[simp] theorem length_third (s : Bytes) : (third s).length = s.length + 1 := by
  simp only [third, fixWeak]
  split <;> simp [expandThird]

/-- Random-to-key turns at most `keyInputSize` bytes into at most `keySize` bytes (R123, R172). -/
theorem length_randomToKey_le {c : Cipher} {r : Bytes} (h : r.length ≤ cipherKeyInputSize c) :
    (randomToKey c r).length ≤ cipherKeySize c := by
  cases c
  case des3 =>
    simp only [randomToKey, List.length_append, length_third, List.length_take, cipherKeySize]
    omega
  all_goals exact h

theorem length_deriveKey_le (cores : Cores) (c : Cipher) (key const : Bytes) :
    (deriveKey cores c key const).length ≤ cipherKeySize c :=
  length_randomToKey_le (length_deriveRandom_le cores c key const)

theorem length_pbkdf2_le (password salt : Bytes) (c dkLen : Nat) : (pbkdf2 password salt c dkLen).length ≤ dkLen :=
  List.length_take_le _ _

@[simp] theorem length_drawBytes (s : State) (n : Nat) : (drawBytes s n).length = n := by simp [drawBytes]

@[simp] theorem length_valid (x : Operand) : x.valid.length = x.len.toNat := length_slice _ _

/-! Every provider answers at most 32 bytes, so its result fits the smallest `OUT_CAP` that R5 allows, 64. -/

theorem hashOutputSize_le (alg : HashAlg) : hashOutputSize alg ≤ 32 := by cases alg <;> decide

theorem cipherBlockSize_le (c : Cipher) : cipherBlockSize c ≤ 32 := by cases c <;> decide

theorem cipherKeyInputSize_le (c : Cipher) : cipherKeyInputSize c ≤ 32 := by cases c <;> decide

theorem cipherKeySize_le (c : Cipher) : cipherKeySize c ≤ 32 := by cases c <;> decide

/-! ### Operand registers within their capacity (R11, R43) -/

/-- Whether an operand register fits is a matter of its bytes; the host may write any length (R13). -/
theorem Operand.fits.setLen {x : Operand} {cap : Nat} (h : x.fits cap) (n : Word) :
    Operand.fits { x with len := n } cap := h

theorem fits_empty (cap : Nat) : Operand.empty.fits cap := ⟨wf_nil, by simp⟩

theorem fits_ofBytes {v : Bytes} {cap : Nat} (h : v.length ≤ cap) : (Operand.ofBytes v).fits cap := by
  refine ⟨wf_place 0 v, fun c hc => ?_⟩
  obtain ⟨-, hlt, -⟩ := mem_place hc
  omega

theorem Operand.fits.writeWindow {x : Operand} {cap : Nat} (h : x.fits cap) (i : Nat) (b : Byte) :
    (writeWindow cap x i b).fits cap := by
  obtain ⟨hwf, hlt⟩ := h
  unfold Machine.writeWindow
  split
  next hi =>
    refine ⟨wf_write hwf i b, fun c hc => ?_⟩
    rcases mem_write hc with hold | ⟨rfl, -⟩
    · exact hlt c hold
    · exact hi
  next => exact ⟨hwf, hlt⟩

theorem Operand.fits.keyAfter {k : Operand} {cap : Nat} (h : k.fits cap) (keep : Bool) :
    (keyAfter keep k).fits cap := by
  cases keep
  case false => exact fits_empty cap
  case true => exact h

/-! ### The values of `STATUS` and `ERRLOG` (R16, R17) -/

theorem statusDone_mem_legalStatus (matched : Bool) : statusDone matched ∈ legalStatus := by
  cases matched <;> decide

theorem statusError_mem_legalStatus (e : ErrorKind) : statusError e ∈ legalStatus := by
  cases e <;> decide

/-- Each error code is one of 1 to 4 (R230), so the bit it logs is one of the four that are not reserved. -/
theorem errorBit_not_reserved (e : ErrorKind) : (1#32 <<< (errorCode e).toNat) &&& ~~~errlogMask = 0#32 := by
  cases e <;> decide

theorem logError_not_reserved {log : Word} (h : log &&& ~~~errlogMask = 0#32) (e : ErrorKind) :
    logError e log &&& ~~~errlogMask = 0#32 := by
  rw [logError, BitVec.and_comm, BitVec.and_or_distrib_left, BitVec.and_comm _ log, h,
    BitVec.and_comm, errorBit_not_reserved, BitVec.or_zero]

theorem clearLogged_not_reserved {log : Word} (h : log &&& ~~~errlogMask = 0#32) (v : Word) :
    clearLogged log v &&& ~~~errlogMask = 0#32 := by
  rw [clearLogged, BitVec.and_assoc, BitVec.and_comm (~~~v), ← BitVec.and_assoc, h, BitVec.zero_and]

/-! ### One rule per state update -/

section Updates
variable {s : State}

theorem State.Inv.outCap_bounds (hs : s.Inv) : 64 ≤ s.cfg.outCap ∧ s.cfg.outCap ≤ 4096 := by
  have hcfg := hs.cfg
  simp only [Config.wellFormed, Bool.and_eq_true, decide_eq_true_eq] at hcfg
  omega

/-- The fields the invariant does not speak of: the parameter registers (R18) and the model's own fields. -/
theorem State.Inv.setUnconstrained (hs : s.Inv) (reqlen nbits iter : Word) (bus : List HostAction)
    (replies : List Word) (source fresh : Nat) :
    State.Inv { s with reqlen := reqlen, nbits := nbits, iter := iter, bus := bus, replies := replies,
                       source := source, fresh := fresh } := { hs with }

theorem State.Inv.setKey (hs : s.Inv) {x : Operand} (hx : x.fits s.cfg.keyCap) : State.Inv { s with key := x } :=
  { hs with key := hx }

theorem State.Inv.setAux (hs : s.Inv) {x : Operand} (hx : x.fits s.cfg.auxCap) : State.Inv { s with aux := x } :=
  { hs with aux := hx }

theorem State.Inv.setMsg (hs : s.Inv) {x : Operand} (hx : x.fits s.cfg.msgCap) : State.Inv { s with msg := x } :=
  { hs with msg := hx }

theorem State.Inv.setStatus (hs : s.Inv) {w : Word} (hw : w ∈ legalStatus) : State.Inv { s with status := w } :=
  { hs with status := hw }

theorem State.Inv.setErrlog (hs : s.Inv) {w : Word} (hw : w &&& ~~~errlogMask = 0#32) :
    State.Inv { s with errlog := w } :=
  { hs with errlog := hw }

/-- `O <- r` (R8) for a string within `OUT_CAP`, whose length therefore fits the length register. -/
theorem State.Inv.setOut (hs : s.Inv) {r : Bytes} (hr : r.length ≤ s.cfg.outCap) :
    State.Inv { s with out := Operand.ofBytes r } := by
  obtain ⟨-, hcap⟩ := hs.outCap_bounds
  have hlen : (Operand.ofBytes r).len.toNat = r.length := by
    rw [ofBytes_len, BitVec.toNat_ofNat]
    omega
  refine { hs with out := fits_ofBytes hr, outLen := hlen.trans_le hr, outTail := fun c hc => ?_ }
  obtain ⟨-, hlt, -⟩ := mem_place hc
  show c.1 < (Operand.ofBytes r).len.toNat
  omega

theorem State.Inv.publish (hs : s.Inv) {r : Bytes} (hr : r.length ≤ s.cfg.outCap) : (publish r s).Inv :=
  (hs.setOut hr).setStatus (statusDone_mem_legalStatus false)

theorem State.Inv.publish_nil (hs : s.Inv) : (Machine.publish [] s).Inv := hs.publish (Nat.zero_le _)

theorem State.Inv.publishKeyed (hs : s.Inv) (keep : Bool) {r : Bytes} (hr : r.length ≤ s.cfg.outCap) :
    (publishKeyed keep r s).Inv :=
  (hs.publish hr).setKey (hs.key.keyAfter keep)

/-- A key-using command whose result has the size of a provider's result. -/
theorem State.Inv.publishKeyed_small (hs : s.Inv) (keep : Bool) {r : Bytes} (hr : r.length ≤ 32) :
    (Machine.publishKeyed keep r s).Inv := by
  obtain ⟨hcap, -⟩ := hs.outCap_bounds
  exact hs.publishKeyed keep (by omega)

theorem State.Inv.raiseError (hs : s.Inv) (e : ErrorKind) (eraseKey : Bool) : (raiseError e eraseKey s).Inv :=
  (((hs.setOut (r := []) (Nat.zero_le _)).setKey (hs.key.keyAfter (!eraseKey))).setErrlog
    (logError_not_reserved hs.errlog e)).setStatus (statusError_mem_legalStatus e)

theorem State.Inv.reply (hs : s.Inv) (v : Word) : (reply v s).Inv := hs.setUnconstrained _ _ _ _ _ _ _

theorem inv_resetWith {c : Config} (hc : c.wellFormed = true) : (State.resetWith c).Inv where
  cfg := hc
  key := fits_empty _
  aux := fits_empty _
  msg := fits_empty _
  out := fits_empty _
  outLen := Nat.zero_le _
  outTail := by simp
  status := show 0#32 ∈ legalStatus by decide
  errlog := show 0#32 &&& ~~~errlogMask = 0#32 by decide

theorem State.Inv.performReset (hs : s.Inv) : (performReset s).Inv :=
  (inv_resetWith hs.cfg).setUnconstrained _ _ _ _ _ _ _

end Updates

/-! ### The commands -/

/-- An operation of the engine keeps the invariant: whenever it answers a next state, that state has it again. -/
def KeepsInv (act : State → Result) : Prop := ∀ s t : State, s.Inv → act s = .next t → t.Inv

section Commands
variable (keep : Bool)

theorem keepsInv_nop : KeepsInv (execNop keep) := by
  intro s t hs h
  rw [execNop_next h]
  exact hs.publish_nil

theorem keepsInv_zeroize : KeepsInv (execZeroize keep) := by
  intro s t hs h
  rw [execZeroize_next h]
  have cleared := (((hs.setKey (fits_empty _)).setAux (fits_empty _)).setMsg (fits_empty _)).publish_nil
  exact cleared.setUnconstrained _ _ _ _ _ _ _

theorem keepsInv_out2key : KeepsInv (execOut2key keep) := by
  intro s t hs h
  obtain ⟨-, rfl⟩ | ⟨hok, rfl⟩ := execOut2key_next h
  · exact hs.raiseError _ _
  · have hlen : s.out.valid.length ≤ s.cfg.keyCap := by simp_all [State.outExceeds]
    exact (hs.setKey (fits_ofBytes hlen)).publish_nil

theorem keepsInv_out2aux : KeepsInv (execOut2aux keep) := by
  intro s t hs h
  obtain ⟨-, rfl⟩ | ⟨hok, rfl⟩ := execOut2aux_next h
  · exact hs.raiseError _ _
  · have hlen : s.out.valid.length ≤ s.cfg.auxCap := by simp_all [State.outExceeds]
    exact (hs.setAux (fits_ofBytes hlen)).publish_nil

theorem keepsInv_out2msg : KeepsInv (execOut2msg keep) := by
  intro s t hs h
  obtain ⟨-, rfl⟩ | ⟨hok, rfl⟩ := execOut2msg_next h
  · exact hs.raiseError _ _
  · have hlen : s.out.valid.length ≤ s.cfg.msgCap := by simp_all [State.outExceeds]
    exact (hs.setMsg (fits_ofBytes hlen)).publish_nil

/-- `TRUNC` publishes `REQLEN` ≤ `OUTLEN` bytes, and the invariant bounds `OUTLEN`. -/
theorem keepsInv_trunc : KeepsInv (execTrunc keep) := by
  intro s t hs h
  obtain ⟨-, rfl⟩ | ⟨hok, rfl⟩ := execTrunc_next h
  · exact hs.raiseError _ _
  · have hreq : s.reqlen.toNat ≤ s.out.len.toNat := by simpa [State.badTrunc] using hok
    exact hs.publish ((length_slice _ _).trans_le (hreq.trans hs.outLen))

theorem keepsInv_nfold : KeepsInv (execNfold keep) := by
  intro s t hs h
  obtain ⟨-, rfl⟩ | ⟨hok, rfl⟩ := execNfold_next h
  · exact hs.raiseError _ _
  · have hbytes : s.nbits.toNat / 8 ≤ s.cfg.outCap := by simp_all [State.badNfold]
    exact hs.publish ((length_nfold _ _).trans_le hbytes)

theorem keepsInv_hmac (alg : HashAlg) : KeepsInv (hmacCommand alg keep) := by
  intro s t hs h
  obtain ⟨-, rfl⟩ | ⟨-, rfl⟩ := hmacCommand_next h
  · exact hs.raiseError _ _
  · exact hs.publishKeyed_small keep ((length_hmac _ _ _).trans_le (hashOutputSize_le alg))

theorem keepsInv_cmac (c : Cipher) : KeepsInv (cmacCommand c keep) := by
  intro s t hs h
  obtain ⟨-, rfl⟩ | ⟨-, rfl⟩ := cmacCommand_next h
  · exact hs.raiseError _ _
  · exact hs.publishKeyed_small keep ((length_cmac _ _ _ _).trans_le (cipherBlockSize_le c))

theorem keepsInv_dr (c : Cipher) : KeepsInv (drCommand c keep) := by
  intro s t hs h
  obtain ⟨-, rfl⟩ | ⟨-, rfl⟩ := drCommand_next h
  · exact hs.raiseError _ _
  · exact hs.publishKeyed_small keep ((length_deriveRandom_le _ _ _ _).trans (cipherKeyInputSize_le c))

theorem keepsInv_dk (c : Cipher) : KeepsInv (dkCommand c keep) := by
  intro s t hs h
  obtain ⟨-, rfl⟩ | ⟨-, rfl⟩ := dkCommand_next h
  · exact hs.raiseError _ _
  · exact hs.publishKeyed_small keep ((length_deriveKey_le _ _ _ _).trans (cipherKeySize_le c))

/-- `R2K` runs only on a key of `keyInputSize` bytes, so its result has at most `keySize`. -/
theorem keepsInv_r2k (c : Cipher) : KeepsInv (r2kCommand c keep) := by
  intro s t hs h
  obtain ⟨-, rfl⟩ | ⟨hok, rfl⟩ := r2kCommand_next h
  · exact hs.raiseError _ _
  · have hkey : s.key.valid.length = cipherKeyInputSize c := by simp_all [State.badRandomToKey]
    exact hs.publishKeyed_small keep ((length_randomToKey_le hkey.le).trans (cipherKeySize_le c))

theorem keepsInv_pbkdf2 : KeepsInv (execPbkdf2Sha1 keep) := by
  intro s t hs h
  obtain ⟨-, rfl⟩ | ⟨hok, rfl⟩ := execPbkdf2Sha1_next h
  · exact hs.raiseError _ _
  · have hreq : s.reqlen.toNat ≤ s.cfg.outCap := by simp_all [State.badPbkdf2]
    exact hs.publishKeyed keep ((length_pbkdf2_le _ _ _ _).trans hreq)

theorem keepsInv_conf : KeepsInv (execConf keep) := by
  intro s t hs h
  obtain ⟨-, rfl⟩ | ⟨hok, rfl⟩ := execConf_next h
  · exact hs.raiseError _ _
  · have hreq : s.reqlen.toNat ≤ s.cfg.outCap := by simpa [State.badConf] using hok
    exact (hs.publish ((length_drawBytes s _).trans_le hreq)).setUnconstrained _ _ _ _ _ _ _

theorem keepsInv_maccmp : KeepsInv (execMaccmp keep) := by
  intro s t hs h
  obtain ⟨-, rfl⟩ | ⟨-, -, rfl⟩ | ⟨-, -, rfl⟩ := execMaccmp_next h
  · exact hs.raiseError _ _
  · exact hs.raiseError _ _
  · exact hs.setStatus (statusDone_mem_legalStatus true)

end Commands

theorem keepsInv_exec (i : Instr) : KeepsInv (exec i) := by
  cases i with
  | nop keep => exact keepsInv_nop keep
  | zeroize keep => exact keepsInv_zeroize keep
  | out2key keep => exact keepsInv_out2key keep
  | out2aux keep => exact keepsInv_out2aux keep
  | out2msg keep => exact keepsInv_out2msg keep
  | trunc keep => exact keepsInv_trunc keep
  | nfold keep => exact keepsInv_nfold keep
  | hmacSha1 keep | hmacMd5 keep => exact keepsInv_hmac keep _
  | cmacAes128 keep | cmacAes256 keep | cmacCam128 keep | cmacCam256 keep => exact keepsInv_cmac keep _
  | drDes3 keep | drAes128 keep | drAes256 keep | drCam128 keep | drCam256 keep => exact keepsInv_dr keep _
  | dkDes3 keep | dkAes128 keep | dkAes256 keep | dkCam128 keep | dkCam256 keep => exact keepsInv_dk keep _
  | r2kDes3 keep | r2kAes128 keep | r2kAes256 keep | r2kCam128 keep | r2kCam256 keep => exact keepsInv_r2k keep _
  | pbkdf2Sha1 keep => exact keepsInv_pbkdf2 keep
  | conf keep => exact keepsInv_conf keep
  | maccmp keep => exact keepsInv_maccmp keep

/-- Whatever the command word: what it decodes to keeps the invariant, and so does the rejection (R66, R233). -/
theorem keepsInv_startCommand (w : Word) : KeepsInv (startCommand w) := by
  intro s t hs h
  obtain ⟨i, -, hi⟩ | ⟨e, -, rfl⟩ := startCommand_next h
  · exact keepsInv_exec i s t hs hi
  · exact hs.raiseError _ _

/-! ### The host's accesses -/

/-- What a legal write can do while `BUSY` = 0: it writes a control register, or one byte of `K`, `A` or `M`, or it is
ignored (R42, R43, R45, R47). -/
theorem writeAt_next {off : Nat} {v : Word} {source : Nat} {s t : State} (h : writeAt off v source s = .next t) :
    (∃ o r, region off = .control o ∧ regAt o = some r ∧ writeReg r v source s = .next t) ∨
    (∃ i, region off = .key i ∧ t = { s with key := writeWindow s.cfg.keyCap s.key i (v.setWidth 8) }) ∨
    (∃ i, region off = .aux i ∧ t = { s with aux := writeWindow s.cfg.auxCap s.aux i (v.setWidth 8) }) ∨
    (∃ i, region off = .msg i ∧ t = { s with msg := writeWindow s.cfg.msgCap s.msg i (v.setWidth 8) }) ∨
    t = s := by
  cases hr : region off with
  | control o =>
    cases hreg : regAt o <;> simp only [writeAt, hr, hreg] at h
    case none => cases h; simp
    case some r => exact .inl ⟨o, r, rfl, hreg, h⟩
  | key i | aux i | msg i | out i | reserved stop => simp only [writeAt, hr] at h; cases h; simp

theorem keepsInv_writeReg (r : Reg) (v : Word) (source : Nat) : KeepsInv (writeReg r v source) := by
  intro s t hs h
  cases r with
  | cmd => exact keepsInv_startCommand v _ t (hs.setUnconstrained _ _ _ _ _ source _) h
  | errlog => cases h; exact hs.setErrlog (clearLogged_not_reserved hs.errlog v)
  | keylen => cases h; exact hs.setKey (hs.key.setLen v)
  | auxlen => cases h; exact hs.setAux (hs.aux.setLen v)
  | msglen => cases h; exact hs.setMsg (hs.msg.setLen v)
  | reqlen | nbits | iter => cases h; exact hs.setUnconstrained _ _ _ _ _ _ _
  | id | status | outlen => cases h; exact hs

theorem keepsInv_writeAt (off : Nat) (v : Word) (source : Nat) : KeepsInv (writeAt off v source) := by
  intro s t hs h
  obtain ⟨-, r, -, -, hr⟩ | ⟨i, -, rfl⟩ | ⟨i, -, rfl⟩ | ⟨i, -, rfl⟩ | rfl := writeAt_next h
  · exact keepsInv_writeReg r v source s t hs hr
  · exact hs.setKey (hs.key.writeWindow i _)
  · exact hs.setAux (hs.aux.writeWindow i _)
  · exact hs.setMsg (hs.msg.writeWindow i _)
  · exact hs

theorem keepsInv_performWrite (off : Nat) (v : Word) (source : Nat) : KeepsInv (performWrite off v source) := by
  intro s t hs h
  obtain ⟨-, rfl⟩ | ⟨-, hw⟩ := performWrite_next h
  · exact hs
  · exact keepsInv_writeAt off v source s t hs hw

theorem State.Inv.readBusy {s : State} (hs : s.Inv) (off width : Nat) : (readBusy off width s).Inv := by
  unfold Machine.readBusy
  split
  · exact hs.reply _
  · exact hs.setUnconstrained _ _ _ _ _ _ _

theorem keepsInv_performRead (off width : Nat) : KeepsInv (performRead off width) := by
  intro s t hs h
  obtain ⟨-, rfl⟩ | ⟨-, rfl⟩ := performRead_next h
  · exact hs.readBusy off width
  · exact hs.reply _

theorem KeepsInv.atOffset {act : Nat → State → Result} (hact : ∀ off, KeepsInv (act off)) (addr width : Nat) :
    KeepsInv (atOffset addr width act) := by
  intro s t hs h
  obtain ⟨-, -, -, ht⟩ := atOffset_next h
  exact hact _ s t hs ht

theorem keepsInv_perform (a : HostAction) : KeepsInv (perform a) := by
  cases a with
  | read addr width => exact .atOffset (fun off => keepsInv_performRead off width) addr width
  | write addr width v source => exact .atOffset (fun off => keepsInv_performWrite off v source) addr width
  | reset =>
    intro s t hs h
    cases h
    exact hs.performReset

/-! ### The step -/

theorem keepsInv_step : KeepsInv step := by
  intro s t hs h
  obtain ⟨-, rfl⟩ | ⟨a, rest, -, ha⟩ := step_next h
  · exact hs
  · exact keepsInv_perform a _ t (hs.setUnconstrained _ _ _ rest _ _ _) ha

/-- Settles O26: the oldest host action is a read, a write or the reset input, and each keeps the invariant. -/
theorem everyStepKeepsTheInvariant : Obligations.EveryStepKeepsTheInvariant := keepsInv_step

end Sys2Proof.Machine
end

section
/-! PROOFS. What the commands and the host's accesses do to the registers of 10_state.md. First every command reduced to
the few effects a command can have (10_state.md R16, R18, 30_encoding.md R60), which gives what a command leaves in `STATUS`
and what it leaves unchanged; then the history of `ERRLOG` (R17); then one rule for each access to a control register
(R15), and the step of a command write (R14) read off them; last reset (R23). -/

namespace Sys2Proof.Machine

/-! ### The effects of the commands -/

/-- What a command can do to the state, by the registers it touches: the error epilogue of R233, a result published with or
without the erasure of `K` (R60), a move of `O` (R82 to R84), or the effect of `ZEROIZE`, `CONF` or `MACCMP`. The strings
published are left open. -/
inductive CommandEffect (s : State) : Instr → State → Prop where
  | error (i : Instr) (e : ErrorKind) (eraseKey : Bool) : CommandEffect s i (raiseError e eraseKey s)
  | publish (i : Instr) (r : Bytes) : CommandEffect s i (publish r s)
  | publishKeyed (i : Instr) (keep : Bool) (r : Bytes) : CommandEffect s i (publishKeyed keep r s)
  | zeroize (keep : Bool) : CommandEffect s (.zeroize keep)
      { s with key := Operand.empty, aux := Operand.empty, msg := Operand.empty, out := Operand.empty,
               reqlen := 0#32, nbits := 0#32, iter := 0#32, status := statusDone false }
  | out2key (keep : Bool) (x : Operand) : CommandEffect s (.out2key keep) (publish [] { s with key := x })
  | out2aux (keep : Bool) (x : Operand) : CommandEffect s (.out2aux keep) (publish [] { s with aux := x })
  | out2msg (keep : Bool) (x : Operand) : CommandEffect s (.out2msg keep) (publish [] { s with msg := x })
  | conf (keep : Bool) (r : Bytes) :
      CommandEffect s (.conf keep) { publish r s with fresh := s.fresh + 1 }
  | maccmp (keep : Bool) : CommandEffect s (.maccmp keep) { s with status := statusDone true }

/-- A command that tests its parameters ends in the error epilogue or does its work. -/
theorem CommandEffect.error_or {i : Instr} {s t u : State} {bad ok : Prop} {e : ErrorKind} {eraseKey : Bool}
    (h : (bad ∧ t = raiseError e eraseKey s) ∨ (ok ∧ t = u)) (hu : CommandEffect s i u) : CommandEffect s i t := by
  obtain ⟨-, rfl⟩ | ⟨-, rfl⟩ := h
  · exact .error i e eraseKey
  · exact hu

theorem exec_effect {i : Instr} {s t : State} (h : exec i s = .next t) : CommandEffect s i t := by
  cases i with
  | nop keep => exact execNop_next (keep := keep) h ▸ .publish _ _
  | zeroize keep => exact execZeroize_next (keep := keep) h ▸ .zeroize keep
  | out2key keep => exact .error_or (execOut2key_next (keep := keep) h) (.out2key keep _)
  | out2aux keep => exact .error_or (execOut2aux_next (keep := keep) h) (.out2aux keep _)
  | out2msg keep => exact .error_or (execOut2msg_next (keep := keep) h) (.out2msg keep _)
  | trunc keep => exact .error_or (execTrunc_next (keep := keep) h) (.publish _ _)
  | nfold keep => exact .error_or (execNfold_next (keep := keep) h) (.publish _ _)
  | hmacSha1 keep | hmacMd5 keep => exact .error_or (hmacCommand_next h) (.publishKeyed _ keep _)
  | cmacAes128 keep | cmacAes256 keep | cmacCam128 keep | cmacCam256 keep =>
    exact .error_or (cmacCommand_next h) (.publishKeyed _ keep _)
  | drDes3 keep | drAes128 keep | drAes256 keep | drCam128 keep | drCam256 keep =>
    exact .error_or (drCommand_next h) (.publishKeyed _ keep _)
  | dkDes3 keep | dkAes128 keep | dkAes256 keep | dkCam128 keep | dkCam256 keep =>
    exact .error_or (dkCommand_next h) (.publishKeyed _ keep _)
  | r2kDes3 keep | r2kAes128 keep | r2kAes256 keep | r2kCam128 keep | r2kCam256 keep =>
    exact .error_or (r2kCommand_next h) (.publishKeyed _ keep _)
  | pbkdf2Sha1 keep => exact .error_or (execPbkdf2Sha1_next h) (.publishKeyed _ keep _)
  | conf keep => exact .error_or (execConf_next (keep := keep) h) (.conf keep _)
  | maccmp keep =>
    obtain ⟨-, rfl⟩ | ⟨-, -, rfl⟩ | ⟨-, -, rfl⟩ := execMaccmp_next (keep := keep) h
    · exact .error _ .invalidParameter false
    · exact .error _ .integrityFailure false
    · exact .maccmp keep

/-! ### `STATUS` after a command (R16, R19) -/

theorem errorCode_ne_zero (e : ErrorKind) : errorCode e ≠ 0#4 := by cases e <;> decide

/-- The fields of `STATUS` after a command that ended without error (R60 step 7). -/
theorem fields_of_statusDone {t : State} {m : Bool} (h : t.status = statusDone m) :
    t.busy = false ∧ t.done = true ∧ t.status &&& ~~~statusMask = 0#32 ∧ t.err = false ∧ t.ecode = 0#4 ∧
      t.matched = m := by
  simp only [State.busy, State.done, State.err, State.ecode, State.matched, h]
  cases m <;> decide

/-- The fields of `STATUS` after a command that ended with error `e` (R233). -/
theorem fields_of_statusError {t : State} {e : ErrorKind} (h : t.status = statusError e) :
    t.busy = false ∧ t.done = true ∧ t.status &&& ~~~statusMask = 0#32 ∧ t.err = true ∧ t.ecode = errorCode e ∧
      t.matched = false := by
  simp only [State.busy, State.done, State.err, State.ecode, State.matched, h]
  cases e <;> decide

/-- Every command ends in one of three ways, and only `MACCMP` reports a match (R60, R162, R233). -/
theorem CommandEffect.status_eq {s t : State} {i : Instr} (h : CommandEffect s i t) :
    t.status = statusDone false ∨ (∃ e, t.status = statusError e) ∨
      ((∃ keep, i = .maccmp keep) ∧ t.status = statusDone true) := by
  cases h with
  | error i e eraseKey => exact .inr (.inl ⟨e, rfl⟩)
  | maccmp keep => exact .inr (.inr ⟨⟨keep, rfl⟩, rfl⟩)
  | publish | publishKeyed | zeroize | out2key | out2aux | out2msg | conf => exact .inl rfl

/-- Settles O21: a command leaves `STATUS` at one of the values of a finished command, whose fields are known. -/
theorem commandRewritesStatus : Obligations.CommandRewritesStatus := by
  intro i s t h
  obtain hok | ⟨e, herr⟩ | ⟨hmac, hmatch⟩ := (exec_effect h).status_eq
  · obtain ⟨hbusy, hdone, hres, herr, hecode, hm⟩ := fields_of_statusDone hok
    exact ⟨hbusy, hdone, hres, by simp [herr, hecode], by simp [hm]⟩
  · obtain ⟨hbusy, hdone, hres, herr, hecode, hm⟩ := fields_of_statusError herr
    exact ⟨hbusy, hdone, hres, by simp [herr, hecode, errorCode_ne_zero], by simp [hm]⟩
  · obtain ⟨hbusy, hdone, hres, herr, hecode, -⟩ := fields_of_statusDone hmatch
    exact ⟨hbusy, hdone, hres, by simp [herr, hecode], fun _ => ⟨hmac, herr⟩⟩

/-! ### What a command leaves unchanged (R18, R65) -/

/-- No command touches the parameters of the engine, the host's side of the bus, or the entropy answers at hand. -/
theorem CommandEffect.host_fields {s t : State} {i : Instr} (h : CommandEffect s i t) :
    t.cfg = s.cfg ∧ t.bus = s.bus ∧ t.replies = s.replies ∧ t.source = s.source := by
  cases h <;> exact ⟨rfl, rfl, rfl, rfl⟩

theorem CommandEffect.aux_eq {s t : State} {i : Instr} (h : CommandEffect s i t)
    (hi : ∀ keep, i ≠ .out2aux keep ∧ i ≠ .zeroize keep) : t.aux = s.aux := by
  cases h with
  | out2aux keep => exact absurd rfl (hi keep).1
  | zeroize keep => exact absurd rfl (hi keep).2
  | error | publish | publishKeyed | out2key | out2msg | conf | maccmp => rfl

theorem CommandEffect.msg_eq {s t : State} {i : Instr} (h : CommandEffect s i t)
    (hi : ∀ keep, i ≠ .out2msg keep ∧ i ≠ .zeroize keep) : t.msg = s.msg := by
  cases h with
  | out2msg keep => exact absurd rfl (hi keep).1
  | zeroize keep => exact absurd rfl (hi keep).2
  | error | publish | publishKeyed | out2key | out2aux | conf | maccmp => rfl

theorem CommandEffect.parameters_eq {s t : State} {i : Instr} (h : CommandEffect s i t)
    (hi : ∀ keep, i ≠ .zeroize keep) : t.reqlen = s.reqlen ∧ t.nbits = s.nbits ∧ t.iter = s.iter := by
  cases h with
  | zeroize keep => exact absurd rfl (hi keep)
  | error | publish | publishKeyed | out2key | out2aux | out2msg | conf | maccmp => exact ⟨rfl, rfl, rfl⟩

theorem CommandEffect.fresh_eq {s t : State} {i : Instr} (h : CommandEffect s i t)
    (hi : ∀ keep, i ≠ .conf keep) : t.fresh = s.fresh := by
  cases h with
  | conf keep => exact absurd rfl (hi keep)
  | error | publish | publishKeyed | zeroize | out2key | out2aux | out2msg | maccmp => rfl

/-- Settles O25: each register is touched by the effects of the commands named, and by no other effect. -/
theorem commandsLeaveOtherRegisters : Obligations.CommandsLeaveOtherRegisters := by
  intro i s t h
  have effect := exec_effect h
  obtain ⟨hcfg, hbus, hreplies, hsource⟩ := effect.host_fields
  refine ⟨hcfg, hbus, hreplies, hsource, fun hi => ?_, fun hi => ?_, effect.parameters_eq, effect.fresh_eq⟩
  · rw [effect.aux_eq hi]
    exact ⟨rfl, fun _ => rfl⟩
  · rw [effect.msg_eq hi]
    exact ⟨rfl, fun _ => rfl⟩

/-! ### The places of the control registers (R15, R40) -/

theorem region_of_lt {off : Nat} (h : off < 0x100) : region off = .control off := if_pos h

theorem region_eq_control {off o : Nat} (h : region off = .control o) : off < 0x100 ∧ o = off := by
  unfold region at h
  split at h
  case isTrue hlt => cases h; exact ⟨hlt, rfl⟩
  case isFalse =>
    repeat' split at h
    all_goals cases h

theorem regOffset_lt (r : Reg) : regOffset r < 0x100 := by cases r <;> decide

theorem regOffset_mod (r : Reg) : regOffset r % 4 = 0 := by cases r <;> decide

@[simp] theorem regAt_regOffset (r : Reg) : regAt (regOffset r) = some r := by cases r <;> rfl

theorem regAt_eq_none {off : Nat} (h : 0x2C ≤ off) : regAt off = none := by
  unfold regAt
  repeat rw [if_neg (by omega)]

theorem regOffset_of_regAt {off : Nat} {r : Reg} (h : regAt off = some r) : off = regOffset r := by
  unfold regAt at h
  repeat' split at h
  all_goals cases h
  all_goals assumption

/-- The legal accesses to the control registers are the aligned ones of 32 bits (R42). -/
theorem legalAccess_control {off : Nat} (h : off < 0x100) (width : Nat) :
    legalAccess off width = true ↔ width = 4 ∧ off % 4 = 0 := by
  simp [legalAccess, region_of_lt h]

/-! ### The history of `ERRLOG` (R17) -/

/-- Every error logged in `s` is still logged in `t`. -/
def LogKept (s t : State) : Prop := ∀ n, s.errlog.getLsbD n = true → t.errlog.getLsbD n = true

theorem LogKept.of_eq {s t : State} (h : t.errlog = s.errlog) : LogKept s t := fun _ hn => h ▸ hn

theorem logKept_raiseError (e : ErrorKind) (eraseKey : Bool) (s : State) : LogKept s (raiseError e eraseKey s) := by
  intro n hn
  rw [raiseError_errlog, logError, BitVec.getLsbD_or, hn, Bool.true_or]

theorem CommandEffect.logKept {s t : State} {i : Instr} (h : CommandEffect s i t) : LogKept s t := by
  cases h with
  | error i e eraseKey => exact logKept_raiseError e eraseKey s
  | publish | publishKeyed | zeroize | out2key | out2aux | out2msg | conf | maccmp => exact .of_eq rfl

theorem startCommand_logKept {w : Word} {s t : State} (h : startCommand w s = .next t) : LogKept s t := by
  obtain ⟨i, -, hi⟩ | ⟨e, -, rfl⟩ := startCommand_next h
  · exact (exec_effect hi).logKept
  · exact logKept_raiseError e _ s

/-- A write to `ERRLOG` is the only register write that can clear a bit of it. -/
theorem writeReg_errlog {r : Reg} {v : Word} {source : Nat} {s t : State} (h : writeReg r v source s = .next t) :
    LogKept s t ∨ (r = .errlog ∧ t.errlog = clearLogged s.errlog v) := by
  cases r with
  | cmd => exact .inl (startCommand_logKept (s := { s with source := source }) h)
  | errlog => cases h; exact .inr ⟨rfl, rfl⟩
  | id | status | keylen | auxlen | msglen | outlen | reqlen | nbits | iter => cases h; exact .inl (.of_eq rfl)

theorem writeAt_errlog {off : Nat} {v : Word} {source : Nat} {s t : State} (h : writeAt off v source s = .next t) :
    LogKept s t ∨ (off = 0x0C ∧ t.errlog = clearLogged s.errlog v) := by
  obtain ⟨o, r, ho, hr, hw⟩ | ⟨i, -, rfl⟩ | ⟨i, -, rfl⟩ | ⟨i, -, rfl⟩ | rfl := writeAt_next h
  · obtain hkept | ⟨rfl, hcleared⟩ := writeReg_errlog hw
    · exact .inl hkept
    · obtain ⟨-, rfl⟩ := region_eq_control ho
      exact .inr ⟨regOffset_of_regAt hr, hcleared⟩
  all_goals exact .inl (.of_eq rfl)

@[simp] theorem readBusy_errlog (off width : Nat) (s : State) : (readBusy off width s).errlog = s.errlog := by
  unfold readBusy
  split <;> rfl

theorem performRead_errlog {off width : Nat} {s t : State} (h : performRead off width s = .next t) :
    t.errlog = s.errlog := by
  obtain ⟨-, rfl⟩ | ⟨-, rfl⟩ := performRead_next h
  · exact readBusy_errlog off width s
  · rfl

/-- Of the host's actions only reset and a 32-bit write to `ERRLOG` can clear a bit of it. -/
theorem perform_errlog {a : HostAction} {s t : State} (h : perform a s = .next t) :
    LogKept s t ∨ a = .reset ∨
      ∃ v source, a = .write (s.cfg.base + 0x0C) 4 v source ∧ t.errlog = clearLogged s.errlog v := by
  cases a with
  | read addr width =>
    rw [perform] at h
    obtain ⟨-, -, -, hread⟩ := atOffset_next h
    exact .inl (.of_eq (performRead_errlog hread))
  | reset => exact .inr (.inl rfl)
  | write addr width v source =>
    rw [perform] at h
    obtain ⟨hbase, -, hlegal, hwrite⟩ := atOffset_next h
    obtain ⟨-, rfl⟩ | ⟨-, hwrite⟩ := performWrite_next hwrite
    · exact .inl (.of_eq rfl)
    obtain hkept | ⟨hoff, hcleared⟩ := writeAt_errlog hwrite
    · exact .inl hkept
    · obtain ⟨rfl, -⟩ := (legalAccess_control (by omega) width).1 hlegal
      obtain rfl : addr = s.cfg.base + 0x0C := by omega
      exact .inr (.inr ⟨v, source, rfl, hcleared⟩)

/-- Settles O29: a step either keeps every logged error, or is a reset or a write to `ERRLOG`, and the write clears exactly
the bits it has set. -/
theorem errorLogIsSticky : Obligations.ErrorLogIsSticky := by
  intro s t n h hset hclear
  obtain ⟨-, rfl⟩ | ⟨a, rest, hbus, ha⟩ := step_next h
  · simp [hset] at hclear
  rw [hbus]
  obtain hkept | rfl | ⟨v, source, rfl, hcleared⟩ := perform_errlog ha
  · exact absurd (hkept n hset) (by simp [hclear])
  · exact .inl rfl
  · refine .inr ⟨v, source, rfl, ?_⟩
    rw [hcleared, clearLogged, BitVec.getLsbD_and, BitVec.getLsbD_not, hset] at hclear
    have hn : n < 32 := BitVec.lt_of_getLsbD hset
    simpa [hn] using hclear

/-! ### Accesses to the control registers (R15, R42) -/

theorem step_of_bus {s : State} {a : HostAction} {rest : List HostAction} (h : s.bus = a :: rest) :
    step s = perform a { s with bus := rest } := by
  simp [step, h]

/-- An aligned 32-bit access in the control-register region is addressed to the engine and legal (R40, R42). -/
theorem atOffset_control {off : Nat} (hlt : off < 0x100) (halign : off % 4 = 0) (act : Nat → State → Result)
    (s : State) :
    atOffset (s.cfg.base + off) 4 act s = act off s := by
  have hin : ¬ (s.cfg.base + off < s.cfg.base ∨ s.cfg.base + windowSize ≤ s.cfg.base + off) := by
    unfold windowSize
    omega
  rw [atOffset, if_neg hin, Nat.add_sub_cancel_left, if_pos ((legalAccess_control hlt 4).2 ⟨rfl, halign⟩)]

/-- No register's value depends on the pending actions. -/
theorem readReg_setBus (s : State) (bus : List HostAction) (r : Reg) :
    readReg { s with bus := bus } r = readReg s r := by
  cases r <;> rfl

section ControlAccess
variable {s : State} {rest : List HostAction} {v : Word} {source off : Nat}

theorem perform_readControl (hbusy : s.busy = false) (hlt : off < 0x100) (halign : off % 4 = 0) :
    perform (.read (s.cfg.base + off) 4) s = .next (reply ((regAt off).elim 0#32 (readReg s)) s) := by
  rw [perform, atOffset_control hlt halign, performRead, if_neg (by simp [hbusy]), readAt, region_of_lt hlt]

theorem perform_writeControl (hbusy : s.busy = false) (hlt : off < 0x100) (halign : off % 4 = 0) :
    perform (.write (s.cfg.base + off) 4 v source) s = writeAt off v source s := by
  rw [perform, atOffset_control hlt halign, performWrite, if_neg (by simp [hbusy])]

theorem perform_readReg (hbusy : s.busy = false) (r : Reg) :
    perform (.read (s.cfg.base + regOffset r) 4) s = .next (reply (readReg s r) s) := by
  rw [perform_readControl hbusy (regOffset_lt r) (regOffset_mod r), regAt_regOffset, Option.elim_some]

theorem perform_writeReg (hbusy : s.busy = false) (r : Reg) :
    perform (.write (s.cfg.base + regOffset r) 4 v source) s = writeReg r v source s := by
  rw [perform_writeControl hbusy (regOffset_lt r) (regOffset_mod r), writeAt, region_of_lt (regOffset_lt r)]
  simp only [regAt_regOffset]

theorem perform_readReserved (hbusy : s.busy = false) (hlow : 0x2C ≤ off) (hhigh : off ≤ 0xFC)
    (halign : off % 4 = 0) : perform (.read (s.cfg.base + off) 4) s = .next (reply 0#32 s) := by
  rw [perform_readControl hbusy (by omega) halign, regAt_eq_none hlow, Option.elim_none]

theorem perform_writeReserved (hbusy : s.busy = false) (hlow : 0x2C ≤ off) (hhigh : off ≤ 0xFC)
    (halign : off % 4 = 0) : perform (.write (s.cfg.base + off) 4 v source) s = .next s := by
  rw [perform_writeControl hbusy (by omega) halign, writeAt, region_of_lt (by omega)]
  simp only [regAt_eq_none hlow]

theorem step_readReg (hbusy : s.busy = false) (r : Reg) (hbus : s.bus = .read (s.cfg.base + regOffset r) 4 :: rest) :
    step s = .next { s with bus := rest, replies := s.replies ++ [readReg s r] } := by
  rw [step_of_bus hbus, ← readReg_setBus s rest r]
  exact perform_readReg (s := { s with bus := rest }) hbusy r

theorem step_writeReg (hbusy : s.busy = false) (r : Reg)
    (hbus : s.bus = .write (s.cfg.base + regOffset r) 4 v source :: rest) :
    step s = writeReg r v source { s with bus := rest } :=
  (step_of_bus hbus).trans (perform_writeReg (s := { s with bus := rest }) hbusy r)

theorem step_readReserved (hbusy : s.busy = false) (hlow : 0x2C ≤ off) (hhigh : off ≤ 0xFC) (halign : off % 4 = 0)
    (hbus : s.bus = .read (s.cfg.base + off) 4 :: rest) :
    step s = .next { s with bus := rest, replies := s.replies ++ [0#32] } :=
  (step_of_bus hbus).trans (perform_readReserved (s := { s with bus := rest }) hbusy hlow hhigh halign)

theorem step_writeReserved (hbusy : s.busy = false) (hlow : 0x2C ≤ off) (hhigh : off ≤ 0xFC) (halign : off % 4 = 0)
    (hbus : s.bus = .write (s.cfg.base + off) 4 v source :: rest) :
    step s = .next { s with bus := rest } :=
  (step_of_bus hbus).trans (perform_writeReserved (s := { s with bus := rest }) hbusy hlow hhigh halign)

end ControlAccess

theorem readReg_resetWith (c : Config) (r : Reg) :
    readReg (State.resetWith c) r = if r = .id then 0x4B480007#32 else 0#32 := by
  cases r <;> simp [readReg, idValue]

/-- Settles O34: each row of the map is the access to its register, as the two rules for registers and the two for reserved
offsets give it. -/
theorem controlRegisterMap : Obligations.ControlRegisterMap := by
  refine ⟨readReg_resetWith, fun s rest hbusy => ⟨?reads, ?reservedReads, ?writes, ?reservedWrites, ?command⟩⟩
  case reads =>
    simp only [List.forall_mem_cons, List.not_mem_nil, false_implies, implies_true, and_true]
    exact ⟨step_readReg hbusy .id, step_readReg hbusy .cmd, step_readReg hbusy .status, step_readReg hbusy .errlog,
      step_readReg hbusy .keylen, step_readReg hbusy .auxlen, step_readReg hbusy .msglen, step_readReg hbusy .outlen,
      step_readReg hbusy .reqlen, step_readReg hbusy .nbits, step_readReg hbusy .iter⟩
  case reservedReads => exact fun off => step_readReserved hbusy
  case writes =>
    intro v e
    simp only [List.forall_mem_cons, List.not_mem_nil, false_implies, implies_true, and_true]
    exact ⟨step_writeReg hbusy .errlog, step_writeReg hbusy .keylen, step_writeReg hbusy .auxlen,
      step_writeReg hbusy .msglen, step_writeReg hbusy .reqlen, step_writeReg hbusy .nbits, step_writeReg hbusy .iter,
      step_writeReg hbusy .id, step_writeReg hbusy .status, step_writeReg hbusy .outlen⟩
  case reservedWrites => exact fun v e off => step_writeReserved hbusy
  case command => exact fun v e => step_writeReg hbusy .cmd

/-! ### The step of a command write (R14, R60) -/

theorem startCommand_of_decode {w : Word} {i : Instr} (h : decode w = .ok i) (s : State) :
    startCommand w s = exec i s := by
  simp only [startCommand, h]

/-- Settles O32: the write to `CMD` starts the command its word decodes to. -/
theorem stepRunsTheDecodedCommand : Obligations.StepRunsTheDecodedCommand := by
  intro s w e i rest hbusy hbus hdecode
  calc step s = startCommand w { s with bus := rest, source := e } := step_writeReg hbusy .cmd hbus
    _ = exec i { s with bus := rest, source := e } := startCommand_of_decode hdecode _

theorem clearBusy_getLsbD_zero (w : Word) : (clearBusy w).getLsbD 0 = false := by simp [clearBusy]

theorem clearBusy_of_not_busy {s : State} (h : s.busy = false) : clearBusy s.status = s.status := by
  refine BitVec.eq_of_getLsbD_eq fun n hn => ?_
  rw [clearBusy, BitVec.getLsbD_and, BitVec.getLsbD_not, BitVec.getLsbD_one]
  by_cases h0 : n = 0
  · subst h0
    rw [show s.status.getLsbD 0 = false from h, Bool.false_and]
  · simp [hn, h0]

/-- Settles O33: `withFetchWord` on an engine that is not busy adds the command write and nothing else, and the step takes
that write off again. -/
theorem engineWaitsForTheNextWrite : Obligations.EngineWaitsForTheNextWrite := by
  refine ⟨fun s hbus => by simp [step, hbus], fun s w i hw hdecode hbusy => ?_⟩
  have hready : (s.withFetchWord 32 w).busy = false := clearBusy_getLsbD_zero s.status
  have hbus : (s.withFetchWord 32 w).bus = commandWrite s.cfg (BitVec.ofNat 32 w) s.source :: s.bus := by
    rw [withFetchWord_bus, Nat.mod_eq_of_lt hw]
  have htaken : { s.withFetchWord 32 w with bus := s.bus, source := s.source } = s := by
    simp only [State.withFetchWord, clearBusy_of_not_busy hbusy]
  calc step (s.withFetchWord 32 w)
      = exec i { s.withFetchWord 32 w with bus := s.bus, source := s.source } :=
        stepRunsTheDecodedCommand _ _ _ i _ hready hbus hdecode
    _ = exec i s := by rw [htaken]

/-! ### Reset (R23, R260) -/

/-- Settles O27: for the defaults of R5, which obey R5, as for any parameters that do. -/
theorem resetMeetsTheInvariant : Obligations.ResetMeetsTheInvariant :=
  ⟨inv_resetWith (by decide), fun _ => inv_resetWith⟩

/-- Settles O42: the step takes the reset input off the bus and performs it. -/
theorem resetInputRestoresEverything : Obligations.ResetInputRestoresEverything := by
  intro s rest hbus
  rw [step_of_bus hbus, perform, performReset]

theorem read_operandEmpty (i : Nat) : Memory.read Operand.empty.bytes i = 0#8 := read_nil i

/-- Settles O43: after reset every operand register is the empty one. -/
theorem resetValues : Obligations.ResetValues := by
  intro c
  refine ⟨?operands, rfl, rfl, rfl, rfl, rfl, readReg_resetWith c .id⟩
  case operands =>
    have hempty : Operand.empty.len = 0#32 ∧ ∀ i, Memory.read Operand.empty.bytes i = 0#8 := ⟨rfl, read_operandEmpty⟩
    simp only [resetWith_key, resetWith_aux, resetWith_msg, resetWith_out, List.forall_mem_cons, List.not_mem_nil,
      false_implies, implies_true, and_true]
    exact ⟨hempty, hempty, hempty, hempty⟩

end Sys2Proof.Machine
end

section
/-! PROOFS. The host's accesses to the window (20_memory.md R40 to R48). First which accesses are addressed to the engine
and legal, and what the step does with each; then the bytes of the operand windows and the accesses that have no effect;
last what holds of every action: it leaves the result registers alone unless it is a command or the reset input, it does not
stop the engine if it is legal, and it shows no byte of `K`. -/

namespace Sys2Proof.Machine

/-! ### The regions and their legal widths (R40, R43, R44) -/

section Regions
variable {i off : Nat}

theorem region_key (hi : i < 0x1000) : region (0x1000 + i) = .key i := by
  rw [region, if_neg (by omega), if_neg (by omega), if_pos (by omega), Nat.add_sub_cancel_left]

theorem region_aux (hi : i < 0x1000) : region (0x2000 + i) = .aux i := by
  rw [region, if_neg (by omega), if_neg (by omega), if_neg (by omega), if_pos (by omega), Nat.add_sub_cancel_left]

theorem region_out (hi : i < 0x1000) : region (0x3000 + i) = .out i := by
  rw [region, if_neg (by omega), if_neg (by omega), if_neg (by omega), if_neg (by omega), if_pos (by omega),
    Nat.add_sub_cancel_left]

theorem region_msg (i : Nat) : region (0x10000 + i) = .msg i := by
  rw [region, if_neg (by omega), if_neg (by omega), if_neg (by omega), if_neg (by omega), if_neg (by omega),
    if_neg (by omega), Nat.add_sub_cancel_left]

theorem region_reservedLow (hlow : 0x100 ≤ off) (hhigh : off < 0x1000) : region off = .reserved 0x1000 := by
  rw [region, if_neg (by omega), if_pos hhigh]

theorem region_reservedHigh (hlow : 0x4000 ≤ off) (hhigh : off < 0x10000) : region off = .reserved 0x10000 := by
  rw [region, if_neg (by omega), if_neg (by omega), if_neg (by omega), if_neg (by omega), if_neg (by omega),
    if_pos hhigh]

/-- The legal accesses to the operand windows are the 8-bit ones (R43). -/
theorem legalAccess_window (h : (0x1000 ≤ off ∧ off < 0x4000) ∨ 0x10000 ≤ off) (width : Nat) :
    legalAccess off width = true ↔ width = 1 := by
  have hwindow : (0x1000 ≤ off ∧ off < 0x2000) ∨ (0x2000 ≤ off ∧ off < 0x3000) ∨ (0x3000 ≤ off ∧ off < 0x4000) ∨
      0x10000 ≤ off := by omega
  obtain ⟨hlow, hhigh⟩ | ⟨hlow, hhigh⟩ | ⟨hlow, hhigh⟩ | hlow := hwindow <;>
    obtain ⟨i, rfl⟩ := Nat.exists_eq_add_of_le hlow
  · simp [legalAccess, region_key (i := i) (by omega)]
  · simp [legalAccess, region_aux (i := i) (by omega)]
  · simp [legalAccess, region_out (i := i) (by omega)]
  · simp [legalAccess, region_msg]

/-- Above the control registers every 8-bit access is legal, in the reserved ranges too (R43, R45; log 8). -/
theorem legalAccess_byte (h : 0x100 ≤ off) : legalAccess off 1 = true := by
  by_cases hlow : off < 0x1000
  · simp [legalAccess, region_reservedLow h hlow, hlow]
  by_cases hreserved : 0x4000 ≤ off ∧ off < 0x10000
  · obtain ⟨hlow, hhigh⟩ := hreserved
    simp [legalAccess, region_reservedHigh hlow hhigh, hhigh]
  · exact (legalAccess_window (by omega) 1).2 rfl

end Regions

/-- R5: no operand register is larger than its window. -/
theorem caps_le_of_wellFormed {c : Config} (h : c.wellFormed = true) :
    c.keyCap ≤ 0x1000 ∧ c.auxCap ≤ 0x1000 ∧ c.outCap ≤ 0x1000 ∧ c.msgCap ≤ 0x10000 := by
  simp only [Config.wellFormed, Bool.and_eq_true, decide_eq_true_eq] at h
  omega

/-! ### Which accesses the engine takes (R40, R44) -/

section Dispatch
variable {s : State} {rest : List HostAction} {addr off width : Nat} {v : Word} {e : Nat}

/-- A legal access at an offset of the window is taken. -/
theorem atOffset_of_legal (hlt : off < windowSize) (hlegal : legalAccess off width = true)
    (act : Nat → State → Result) (s : State) : atOffset (s.cfg.base + off) width act s = act off s := by
  rw [atOffset, if_neg (by omega), Nat.add_sub_cancel_left, if_pos hlegal]

theorem atOffset_of_illegal (hlt : off < windowSize) (hillegal : ¬ legalAccess off width = true)
    (act : Nat → State → Result) (s : State) :
    atOffset (s.cfg.base + off) width act s = .refused (.illegalAccess off width) := by
  rw [atOffset, if_neg (by omega), Nat.add_sub_cancel_left, if_neg hillegal]

theorem atOffset_of_outside (h : addr < s.cfg.base ∨ s.cfg.base + windowSize ≤ addr) (act : Nat → State → Result) :
    atOffset addr width act s = .fault (.outsideWindow addr) := if_pos h

theorem perform_readLegal (hlt : off < windowSize) (hlegal : legalAccess off width = true) (s : State) :
    perform (.read (s.cfg.base + off) width) s = performRead off width s := by
  rw [perform, atOffset_of_legal hlt hlegal]

theorem perform_writeLegal (hlt : off < windowSize) (hlegal : legalAccess off width = true) (s : State) :
    perform (.write (s.cfg.base + off) width v e) s = performWrite off v e s := by
  rw [perform, atOffset_of_legal hlt hlegal]

/-- What a read returns does not depend on the pending actions. -/
theorem readAt_setBus (s : State) (bus : List HostAction) (off : Nat) :
    readAt { s with bus := bus } off = readAt s off := by
  have hreg : readReg { s with bus := bus } = readReg s := funext (readReg_setBus s bus)
  simp only [readAt, hreg]

/-- The step of a legal read while `BUSY` = 0. -/
theorem step_readLegal (hbusy : s.busy = false) (hlt : off < windowSize) (hlegal : legalAccess off width = true)
    (hbus : s.bus = .read (s.cfg.base + off) width :: rest) :
    step s = .next { s with bus := rest, replies := s.replies ++ [readAt s off] } := by
  have hready : ¬ State.busy { s with bus := rest } = true := by simpa [State.busy] using hbusy
  calc step s = performRead off width { s with bus := rest } :=
        (step_of_bus hbus).trans (perform_readLegal hlt hlegal { s with bus := rest })
    _ = .next (reply (readAt { s with bus := rest } off) { s with bus := rest }) := if_neg hready
    _ = _ := by rw [readAt_setBus, reply]

/-- The step of a legal write while `BUSY` = 0. -/
theorem step_writeLegal (hbusy : s.busy = false) (hlt : off < windowSize) (hlegal : legalAccess off width = true)
    (hbus : s.bus = .write (s.cfg.base + off) width v e :: rest) :
    step s = writeAt off v e { s with bus := rest } := by
  have hready : ¬ State.busy { s with bus := rest } = true := by simpa [State.busy] using hbusy
  calc step s = performWrite off v e { s with bus := rest } :=
        (step_of_bus hbus).trans (perform_writeLegal hlt hlegal { s with bus := rest })
    _ = writeAt off v e { s with bus := rest } := if_neg hready

theorem step_readByte (hbusy : s.busy = false) (hlow : 0x100 ≤ off) (hhigh : off < 0x20000)
    (hbus : s.bus = .read (s.cfg.base + off) 1 :: rest) :
    step s = .next { s with bus := rest, replies := s.replies ++ [readAt s off] } :=
  step_readLegal hbusy hhigh (legalAccess_byte hlow) hbus

theorem step_writeByte (hbusy : s.busy = false) (hlow : 0x100 ≤ off) (hhigh : off < 0x20000)
    (hbus : s.bus = .write (s.cfg.base + off) 1 v e :: rest) :
    step s = writeAt off v e { s with bus := rest } :=
  step_writeLegal hbusy hhigh (legalAccess_byte hlow) hbus

end Dispatch

/-- Settles O40: neither a read nor a write outside the window is addressed to the engine. -/
theorem accessOutsideTheWindowFaults : Obligations.AccessOutsideTheWindowFaults := by
  intro s addr width v e rest hout hbus
  obtain hbus | hbus := hbus <;> rw [step_of_bus hbus, perform]
  all_goals exact atOffset_of_outside (s := { s with bus := rest }) hout _

/-- Settles O39: where 32-bit or 8-bit accesses alone are legal, a read and a write of any other width are refused alike. -/
theorem illegalWidthsAreRefused : Obligations.IllegalWidthsAreRefused := by
  intro s off width v e rest hwidth hbus
  have hlt : off < windowSize := by unfold windowSize; omega
  have hillegal : ¬ legalAccess off width = true := by
    by_cases hreg : off < 0x100
    · rw [legalAccess_control hreg]
      omega
    · rw [legalAccess_window (by omega)]
      omega
  obtain hbus | hbus := hbus <;> rw [step_of_bus hbus, perform]
  all_goals exact atOffset_of_illegal hlt hillegal _ { s with bus := rest }

/-! ### The operand windows (R43, R45, R46, R47) -/

section Windows
variable {s : State} {i cap : Nat} {x : Operand}

theorem readWindow_of_lt (hi : i < cap) (x : Operand) : readWindow cap x i = (Memory.read x.bytes i).setWidth 32 :=
  if_pos hi

theorem readWindow_of_le (hi : cap ≤ i) (x : Operand) : readWindow cap x i = 0#32 := if_neg (by omega)

theorem writeWindow_of_le (hi : cap ≤ i) (x : Operand) (b : Byte) : writeWindow cap x i b = x := if_neg (by omega)

@[simp] theorem writeWindow_len (cap : Nat) (x : Operand) (i : Nat) (b : Byte) :
    (writeWindow cap x i b).len = x.len := by
  unfold writeWindow
  split <;> rfl

theorem read_writeWindow (hwf : Memory.wf x.bytes) (hi : i < cap) (b : Byte) (j : Nat) :
    Memory.read (writeWindow cap x i b).bytes j = if j = i then b else Memory.read x.bytes j := by
  rw [writeWindow, if_pos hi, read_write hwf]

theorem readAt_key (hi : i < 0x1000) : readAt s (0x1000 + i) = 0#32 := by rw [readAt, region_key hi]

theorem readAt_aux (hi : i < 0x1000) : readAt s (0x2000 + i) = readWindow s.cfg.auxCap s.aux i := by
  rw [readAt, region_aux hi]

theorem readAt_out (hi : i < 0x1000) : readAt s (0x3000 + i) = readWindow s.cfg.outCap s.out i := by
  rw [readAt, region_out hi]

theorem readAt_msg (i : Nat) : readAt s (0x10000 + i) = readWindow s.cfg.msgCap s.msg i := by
  rw [readAt, region_msg]

variable {v : Word} {e : Nat}

theorem writeAt_key (hi : i < 0x1000) : writeAt (0x1000 + i) v e s =
    .next { s with key := writeWindow s.cfg.keyCap s.key i (v.setWidth 8) } := by
  rw [writeAt, region_key hi]

theorem writeAt_aux (hi : i < 0x1000) : writeAt (0x2000 + i) v e s =
    .next { s with aux := writeWindow s.cfg.auxCap s.aux i (v.setWidth 8) } := by
  rw [writeAt, region_aux hi]

theorem writeAt_out (hi : i < 0x1000) : writeAt (0x3000 + i) v e s = .next s := by rw [writeAt, region_out hi]

theorem writeAt_msg (i : Nat) : writeAt (0x10000 + i) v e s =
    .next { s with msg := writeWindow s.cfg.msgCap s.msg i (v.setWidth 8) } := by
  rw [writeAt, region_msg]

end Windows

/-- Settles O35: the write lands in its own window, and `writeWindow` sets the one byte. -/
theorem windowWriteSetsOneByte : Obligations.WindowWriteSetsOneByte := by
  intro s i v e rest hbusy hcfg
  obtain ⟨hkey, haux, -, hmsg⟩ := caps_le_of_wellFormed hcfg
  simp only [Nat.add_assoc]
  refine ⟨fun hi hwf hbus => ?key, fun hi hwf hbus => ?aux, fun hi hwf hbus => ?msg⟩
  case key =>
    exact ⟨_, writeWindow_len _ _ i _, read_writeWindow hwf hi _,
      (step_writeByte hbusy (by omega) (by omega) hbus).trans (writeAt_key (by omega))⟩
  case aux =>
    exact ⟨_, writeWindow_len _ _ i _, read_writeWindow hwf hi _,
      (step_writeByte hbusy (by omega) (by omega) hbus).trans (writeAt_aux (by omega))⟩
  case msg =>
    exact ⟨_, writeWindow_len _ _ i _, read_writeWindow hwf hi _,
      (step_writeByte hbusy (by omega) (by omega) hbus).trans (writeAt_msg i)⟩

/-- Settles O36: the read comes from its own window, whose byte is below the capacity. -/
theorem windowReadReturnsTheByte : Obligations.WindowReadReturnsTheByte := by
  intro s i rest hbusy hcfg
  obtain ⟨-, haux, hout, hmsg⟩ := caps_le_of_wellFormed hcfg
  simp only [Nat.add_assoc]
  refine ⟨fun hi hbus => ?aux, fun hi hbus => ?out, fun hi hbus => ?msg⟩
  case aux => rw [step_readByte hbusy (by omega) (by omega) hbus, readAt_aux (by omega), readWindow_of_lt hi]
  case out => rw [step_readByte hbusy (by omega) (by omega) hbus, readAt_out (by omega), readWindow_of_lt hi]
  case msg => rw [step_readByte hbusy (by omega) (by omega) hbus, readAt_msg, readWindow_of_lt hi]

/-- Settles O37: the `K` window reads 0 at every byte, and `KEYLEN` is a control register like the others. -/
theorem keyWindowReadsZero : Obligations.KeyWindowReadsZero := by
  intro s rest hbusy
  refine ⟨fun i hi hbus => ?window, step_readReg hbusy .keylen⟩
  case window =>
    rw [Nat.add_assoc] at hbus
    rw [step_readByte hbusy (by omega) (by omega) hbus, readAt_key hi]

/-! ### Accesses without effect (R45, R47) -/

/-- At this offset an 8-bit read returns 0 and an 8-bit write is ignored (R45). -/
structure Inert (s : State) (off : Nat) : Prop where
  /-- The offset lies in the window, above the control registers. -/
  inWindow : 0x100 ≤ off ∧ off < 0x20000
  /-- A read returns 0. -/
  read : readAt s off = 0#32
  /-- A write is ignored, whatever actions are pending behind it. -/
  write (v : Word) (e : Nat) (rest : List HostAction) :
    writeAt off v e { s with bus := rest } = .next { s with bus := rest }

section Inert
variable {s : State} {i off stop : Nat}

theorem inert_key (hcap : s.cfg.keyCap ≤ i) (hi : i < 0x1000) : Inert s (0x1000 + i) where
  inWindow := by omega
  read := readAt_key hi
  write v e rest := by rw [writeAt_key hi, writeWindow_of_le hcap]

theorem inert_aux (hcap : s.cfg.auxCap ≤ i) (hi : i < 0x1000) : Inert s (0x2000 + i) where
  inWindow := by omega
  read := (readAt_aux hi).trans (readWindow_of_le hcap _)
  write v e rest := by rw [writeAt_aux hi, writeWindow_of_le hcap]

theorem inert_out (hcap : s.cfg.outCap ≤ i) (hi : i < 0x1000) : Inert s (0x3000 + i) where
  inWindow := by omega
  read := (readAt_out hi).trans (readWindow_of_le hcap _)
  write v e rest := writeAt_out hi

theorem inert_msg (hcap : s.cfg.msgCap ≤ i) (hi : i < 0x10000) : Inert s (0x10000 + i) where
  inWindow := by omega
  read := (readAt_msg i).trans (readWindow_of_le hcap _)
  write v e rest := by rw [writeAt_msg, writeWindow_of_le hcap]

theorem inert_reserved (hr : region off = .reserved stop) (h : 0x100 ≤ off ∧ off < 0x20000) : Inert s off where
  inWindow := h
  read := by rw [readAt, hr]
  write v e rest := by rw [writeAt, hr]

end Inert

/-- Settles O38: beyond a capacity and in a reserved range the offset is inert; of the `O` window the writes are ignored at
every offset. -/
theorem beyondCapacityReadsZeroAndIgnoresWrites : Obligations.BeyondCapacityReadsZeroAndIgnoresWrites := by
  intro s off rest hbusy
  refine ⟨fun hoff => ?inert, fun v e hlow hhigh hbus => ?out⟩
  case inert =>
    have hinert : Inert s off := by
      obtain ⟨hcap, hlow, hhigh⟩ | ⟨hcap, hlow, hhigh⟩ | ⟨hcap, hlow, hhigh⟩ | ⟨hcap, hlow, hhigh⟩ |
        ⟨hlow, hhigh⟩ | ⟨hlow, hhigh⟩ := hoff
      · obtain ⟨i, rfl⟩ := Nat.exists_eq_add_of_le hlow
        exact inert_key (by omega) (by omega)
      · obtain ⟨i, rfl⟩ := Nat.exists_eq_add_of_le hlow
        exact inert_aux (by omega) (by omega)
      · obtain ⟨i, rfl⟩ := Nat.exists_eq_add_of_le hlow
        exact inert_out (by omega) (by omega)
      · obtain ⟨i, rfl⟩ := Nat.exists_eq_add_of_le hlow
        exact inert_msg (by omega) (by omega)
      · exact inert_reserved (region_reservedLow hlow hhigh) (by omega)
      · exact inert_reserved (region_reservedHigh hlow hhigh) (by omega)
    obtain ⟨⟨hlow, hhigh⟩, hread, hwrite⟩ := hinert
    exact ⟨fun hbus => hread ▸ step_readByte hbusy hlow hhigh hbus,
      fun v e hbus => (step_writeByte hbusy hlow hhigh hbus).trans (hwrite v e rest)⟩
  case out =>
    obtain ⟨i, rfl⟩ := Nat.exists_eq_add_of_le hlow
    rw [step_writeByte hbusy (by omega) (by omega) hbus, writeAt_out (by omega)]

/-! ### What a host action leaves unchanged (R15, R47, R48) -/

/-- What no access but a command changes: the parameters, the pending actions, the result and `STATUS`. -/
structure LeavesResult (s t : State) : Prop where
  cfg : t.cfg = s.cfg
  bus : t.bus = s.bus
  out : t.out = s.out
  status : t.status = s.status

theorem LeavesResult.refl (s : State) : LeavesResult s s := ⟨rfl, rfl, rfl, rfl⟩

theorem leavesResult_readBusy (off width : Nat) (s : State) : LeavesResult s (readBusy off width s) := by
  unfold readBusy
  split <;> exact ⟨rfl, rfl, rfl, rfl⟩

section Actions
variable {s t : State}

theorem performRead_leavesResult {off width : Nat} (h : performRead off width s = .next t) : LeavesResult s t := by
  obtain ⟨-, rfl⟩ | ⟨-, rfl⟩ := performRead_next h
  · exact leavesResult_readBusy off width s
  · exact ⟨rfl, rfl, rfl, rfl⟩

theorem writeReg_cases {r : Reg} {v : Word} {e : Nat} (h : writeReg r v e s = .next t) :
    LeavesResult s t ∨ (r = .cmd ∧ startCommand v { s with source := e } = .next t) := by
  cases r with
  | cmd => exact .inr ⟨rfl, h⟩
  | id | status | errlog | keylen | auxlen | msglen | outlen | reqlen | nbits | iter =>
    cases h
    exact .inl ⟨rfl, rfl, rfl, rfl⟩

theorem performWrite_cases {off : Nat} {v : Word} {e : Nat} (h : performWrite off v e s = .next t) :
    LeavesResult s t ∨ (off = 0x04 ∧ startCommand v { s with source := e } = .next t) := by
  obtain ⟨-, rfl⟩ | ⟨-, hwrite⟩ := performWrite_next h
  · exact .inl (.refl _)
  obtain ⟨o, r, ho, hr, hw⟩ | ⟨i, -, rfl⟩ | ⟨i, -, rfl⟩ | ⟨i, -, rfl⟩ | rfl := writeAt_next hwrite
  · obtain hkept | ⟨rfl, hstart⟩ := writeReg_cases hw
    · exact .inl hkept
    · obtain ⟨-, rfl⟩ := region_eq_control ho
      exact .inr ⟨regOffset_of_regAt hr, hstart⟩
  all_goals exact .inl ⟨rfl, rfl, rfl, rfl⟩

/-- The one legal access at the offset of `CMD` is the 32-bit one (R42). -/
theorem commandWrite_of_offset {c : Config} {addr width : Nat} (hbase : c.base ≤ addr)
    (hlegal : legalAccess (addr - c.base) width = true) (hoff : addr - c.base = 0x04) :
    addr = c.base + 0x04 ∧ width = 4 := by
  obtain ⟨hwidth, -⟩ := (legalAccess_control (by omega) width).1 hlegal
  exact ⟨by omega, hwidth⟩

/-- Only the reset input and the write that starts a command change the result registers. -/
theorem perform_cases {a : HostAction} (h : perform a s = .next t) :
    LeavesResult s t ∨ (a = .reset ∧ t = performReset s) ∨
      ∃ v e, a = .write (s.cfg.base + 0x04) 4 v e ∧ startCommand v { s with source := e } = .next t := by
  cases a with
  | reset => cases h; exact .inr (.inl ⟨rfl, rfl⟩)
  | read addr width =>
    rw [perform] at h
    obtain ⟨-, -, -, hread⟩ := atOffset_next h
    exact .inl (performRead_leavesResult hread)
  | write addr width v e =>
    rw [perform] at h
    obtain ⟨hbase, -, hlegal, hwrite⟩ := atOffset_next h
    obtain hkept | ⟨hoff, hstart⟩ := performWrite_cases hwrite
    · exact .inl hkept
    · obtain ⟨rfl, rfl⟩ := commandWrite_of_offset hbase hlegal hoff
      exact .inr (.inr ⟨v, e, rfl, hstart⟩)

end Actions

/-- Settles O31: of the actions that a step can take, the two that change the result registers are those excluded. -/
theorem hostCannotWriteTheResult : Obligations.HostCannotWriteTheResult := by
  intro s t hcommand hreset h
  obtain ⟨-, rfl⟩ | ⟨a, rest, hbus, ha⟩ := step_next h
  · exact ⟨rfl, rfl⟩
  simp only [hbus, List.head?_cons] at hcommand hreset
  obtain hkept | ⟨rfl, -⟩ | ⟨v, e, rfl, -⟩ := perform_cases ha
  · exact ⟨hkept.out, hkept.status⟩
  · exact absurd rfl hreset
  · exact absurd rfl (hcommand v e)

/-! ### Legal actions never stop the engine (R240) -/

/-- A command that tests its parameters answers a next state either way. -/
theorem exists_next_ite (bad : Prop) [Decidable bad] (t u : State) :
    ∃ w, (if bad then .next t else .next u : Result) = .next w := by
  split <;> exact ⟨_, rfl⟩

theorem exec_answers (i : Instr) (s : State) : ∃ t, exec i s = .next t := by
  cases i with
  | nop | zeroize => exact ⟨_, rfl⟩
  | maccmp keep =>
    rw [exec_maccmp, execMaccmp]
    split
    · exact ⟨_, rfl⟩
    · exact exists_next_ite _ _ _
  | _ => exact exists_next_ite _ _ _ -- every other command tests its parameters once

theorem startCommand_answers (w : Word) (s : State) : ∃ t, startCommand w s = .next t := by
  cases hd : decode w with
  | ok i => exact startCommand_of_decode hd s ▸ exec_answers i s
  | error e => exact ⟨_, by rw [startCommand, hd]⟩

theorem writeReg_answers (r : Reg) (v : Word) (e : Nat) (s : State) : ∃ t, writeReg r v e s = .next t := by
  cases r with
  | cmd => exact startCommand_answers v _
  | _ => exact ⟨_, rfl⟩

theorem writeAt_answers (off : Nat) (v : Word) (e : Nat) (s : State) : ∃ t, writeAt off v e s = .next t := by
  cases hr : region off with
  | control o =>
    cases hreg : regAt o <;> simp only [writeAt, hr, hreg]
    case none => exact ⟨_, rfl⟩
    case some r => exact writeReg_answers r v e s
  | key | aux | msg | out | reserved =>
    simp only [writeAt, hr]
    exact ⟨_, rfl⟩

theorem performRead_answers (off width : Nat) (s : State) : ∃ t, performRead off width s = .next t :=
  exists_next_ite _ _ _

theorem performWrite_answers (off : Nat) (v : Word) (e : Nat) (s : State) : ∃ t, performWrite off v e s = .next t := by
  unfold performWrite
  split
  · exact ⟨_, rfl⟩
  · exact writeAt_answers off v e s

/-- A legal access is taken, so it answers what its effect answers. -/
theorem atOffset_answers {addr width : Nat} {act : Nat → State → Result} {s : State}
    (hlow : s.cfg.base ≤ addr) (hhigh : addr < s.cfg.base + windowSize)
    (hlegal : legalAccess (addr - s.cfg.base) width = true) (hact : ∀ off, ∃ t, act off s = .next t) :
    ∃ t, atOffset addr width act s = .next t := by
  obtain ⟨off, rfl⟩ := Nat.exists_eq_add_of_le hlow
  rw [Nat.add_sub_cancel_left] at hlegal
  rw [atOffset_of_legal (by omega) hlegal]
  exact hact off

theorem perform_answers {a : HostAction} {s : State} (h : HostAction.legal s.cfg a = true) :
    ∃ t, perform a s = .next t := by
  cases a with
  | reset => exact ⟨_, rfl⟩
  | read addr width =>
    simp only [HostAction.legal, Bool.and_eq_true, decide_eq_true_eq] at h
    obtain ⟨⟨hlow, hhigh⟩, hlegal⟩ := h
    exact atOffset_answers hlow hhigh hlegal fun off => performRead_answers off width s
  | write addr width v e =>
    simp only [HostAction.legal, Bool.and_eq_true, decide_eq_true_eq] at h
    obtain ⟨⟨hlow, hhigh⟩, hlegal⟩ := h
    exact atOffset_answers hlow hhigh hlegal fun off => performWrite_answers off v e s

theorem startCommand_host_fields {w : Word} {s t : State} (h : startCommand w s = .next t) :
    t.cfg = s.cfg ∧ t.bus = s.bus := by
  obtain ⟨i, -, hi⟩ | ⟨e, -, rfl⟩ := startCommand_next h
  · obtain ⟨hcfg, hbus, -, -⟩ := (exec_effect hi).host_fields
    exact ⟨hcfg, hbus⟩
  · exact ⟨rfl, rfl⟩

/-- No host action changes the parameters or the actions behind it. -/
theorem perform_host_fields {a : HostAction} {s t : State} (h : perform a s = .next t) :
    t.cfg = s.cfg ∧ t.bus = s.bus := by
  obtain hkept | ⟨-, rfl⟩ | ⟨v, e, -, hstart⟩ := perform_cases h
  · exact ⟨hkept.cfg, hkept.bus⟩
  · exact ⟨rfl, rfl⟩
  · exact startCommand_host_fields (s := { s with source := e }) hstart

/-- Settles O28: a legal action answers a next state, and the actions behind it stay as they were. -/
theorem legalActionsNeverStopTheEngine : Obligations.LegalActionsNeverStopTheEngine := by
  intro s hlegal
  cases hbus : s.bus with
  | nil => exact ⟨s, by simp [step, hbus], rfl, hlegal⟩
  | cons a rest =>
    simp only [hbus, List.forall_mem_cons] at hlegal
    obtain ⟨ha, hrest⟩ := hlegal
    obtain ⟨t, ht⟩ := perform_answers (s := { s with bus := rest }) ha
    obtain ⟨hcfg, htail⟩ := perform_host_fields ht
    refine ⟨t, (step_of_bus hbus).trans ht, hcfg, ?_⟩
    rw [hcfg, htail]
    exact hrest

/-! ### The bytes of `K` stay hidden (R46) -/

/-- The engine with other bytes in `K` and everything else alike. -/
def State.setKeyBytes (s : State) (kb : Memory) : State := { s with key := { s.key with bytes := kb } }

/-- Two answers that differ at most in the bytes of `K`. -/
inductive SameButKey : Result → Result → Prop where
  | next (t : State) (kb : Memory) : SameButKey (.next t) (.next (t.setKeyBytes kb))
  | fault (f : Fault) : SameButKey (.fault f) (.fault f)
  | refused (r : Refusal) : SameButKey (.refused r) (.refused r)

section Hidden
variable (s : State) (kb : Memory)

theorem readReg_setKeyBytes (r : Reg) : readReg (s.setKeyBytes kb) r = readReg s r := by cases r <;> rfl

/-- No read looks at the bytes of `K`: the `K` window reads 0 and `KEYLEN` is its length. -/
theorem readAt_setKeyBytes (off : Nat) : readAt (s.setKeyBytes kb) off = readAt s off := by
  have hreg : readReg (s.setKeyBytes kb) = readReg s := funext (readReg_setKeyBytes s kb)
  rw [readAt, readAt, hreg]
  rfl

theorem readBusy_setKeyBytes (off width : Nat) :
    readBusy off width (s.setKeyBytes kb) = (readBusy off width s).setKeyBytes kb := by
  unfold readBusy
  split <;> rfl

theorem performRead_sameButKey (off width : Nat) :
    SameButKey (performRead off width s) (performRead off width (s.setKeyBytes kb)) := by
  unfold performRead
  rw [show (s.setKeyBytes kb).busy = s.busy from rfl, readBusy_setKeyBytes, readAt_setKeyBytes]
  split
  · exact .next _ kb
  · exact .next _ kb

theorem writeReg_sameButKey {r : Reg} (hr : r ≠ .cmd) (v : Word) (e : Nat) :
    SameButKey (writeReg r v e s) (writeReg r v e (s.setKeyBytes kb)) := by
  cases r with
  | cmd => exact absurd rfl hr
  | _ => exact .next _ kb

/-- Two `K` registers of one length still have one length after the same write to both. -/
theorem sameButKey_writeKey (i : Nat) (b : Byte) :
    SameButKey (.next { s with key := writeWindow s.cfg.keyCap s.key i b })
      (.next { s.setKeyBytes kb with key := writeWindow s.cfg.keyCap (s.setKeyBytes kb).key i b }) := by
  have hkey : { s.setKeyBytes kb with key := writeWindow s.cfg.keyCap (s.setKeyBytes kb).key i b } =
      State.setKeyBytes { s with key := writeWindow s.cfg.keyCap s.key i b }
        (writeWindow s.cfg.keyCap (s.setKeyBytes kb).key i b).bytes := by
    unfold writeWindow
    split <;> rfl
  rw [hkey]
  exact .next _ _

theorem writeAt_sameButKey {off : Nat} (hoff : off ≠ 0x04) (v : Word) (e : Nat) :
    SameButKey (writeAt off v e s) (writeAt off v e (s.setKeyBytes kb)) := by
  cases hr : region off with
  | control o =>
    obtain ⟨-, rfl⟩ := region_eq_control hr
    cases hreg : regAt o with
    | none =>
      simp only [writeAt, hr, hreg]
      exact .next s kb
    | some r =>
      simp only [writeAt, hr, hreg]
      exact writeReg_sameButKey s kb (fun h => hoff (regOffset_of_regAt (h ▸ hreg))) v e
  | key i =>
    simp only [writeAt, hr]
    exact sameButKey_writeKey s kb i _
  | aux i | msg i | out i | reserved stop =>
    simp only [writeAt, hr]
    exact .next _ kb

theorem performWrite_sameButKey {off : Nat} (hoff : off ≠ 0x04) (v : Word) (e : Nat) :
    SameButKey (performWrite off v e s) (performWrite off v e (s.setKeyBytes kb)) := by
  unfold performWrite
  rw [show (s.setKeyBytes kb).busy = s.busy from rfl]
  split
  · exact .next s kb
  · exact writeAt_sameButKey s kb hoff v e

/-- Whether an access stops the model does not depend on `K`; one that does not is legal. -/
theorem atOffset_sameButKey {addr width : Nat} {act : Nat → State → Result}
    (hact : s.cfg.base ≤ addr → legalAccess (addr - s.cfg.base) width = true →
      SameButKey (act (addr - s.cfg.base) s) (act (addr - s.cfg.base) (s.setKeyBytes kb))) :
    SameButKey (atOffset addr width act s) (atOffset addr width act (s.setKeyBytes kb)) := by
  unfold atOffset
  rw [show (s.setKeyBytes kb).cfg = s.cfg from rfl]
  split
  · exact .fault _
  split
  · exact hact (by omega) (by assumption)
  · exact .refused _

theorem perform_sameButKey {a : HostAction} (ha : ∀ w e, a ≠ .write (s.cfg.base + 0x04) 4 w e) :
    SameButKey (perform a s) (perform a (s.setKeyBytes kb)) := by
  cases a with
  | reset => exact .next (performReset s) []
  | read addr width =>
    rw [perform, perform]
    exact atOffset_sameButKey s kb fun _ _ => performRead_sameButKey s kb _ width
  | write addr width v e =>
    rw [perform, perform]
    refine atOffset_sameButKey s kb fun hbase hlegal => performWrite_sameButKey s kb (fun hoff => ?_) v e
    obtain ⟨rfl, rfl⟩ := commandWrite_of_offset hbase hlegal hoff
    exact ha v e rfl

theorem step_sameButKey (h : ∀ w e, s.bus.head? ≠ some (.write (s.cfg.base + 0x04) 4 w e)) :
    SameButKey (step s) (step (s.setKeyBytes kb)) := by
  cases hbus : s.bus with
  | nil =>
    rw [show step s = .next s by simp [step, hbus],
      show step (s.setKeyBytes kb) = .next (s.setKeyBytes kb) by simp [step, State.setKeyBytes, hbus]]
    exact .next s kb
  | cons a rest =>
    rw [step_of_bus hbus, step_of_bus (s := s.setKeyBytes kb) hbus]
    refine perform_sameButKey { s with bus := rest } kb fun w e ha => h w e ?_
    rw [hbus, ha, List.head?_cons]

end Hidden

/-- Settles O30: the two steps answer alike but for the bytes of `K`, whichever way they end. -/
theorem hostAccessesRevealNoKeyBytes : Obligations.HostAccessesRevealNoKeyBytes := by
  intro s kb hcommand
  have hsame : SameButKey (step s) (step { s with key := { s.key with bytes := kb } }) :=
    step_sameButKey s kb hcommand
  generalize step s = r, step { s with key := { s.key with bytes := kb } } = r' at hsame ⊢
  cases hsame with
  | next t kb' => exact ⟨fun _ h => by cases h; exact ⟨_, rfl, rfl, rfl⟩, nofun, nofun⟩
  | fault f => exact ⟨nofun, fun _ h => h, nofun⟩
  | refused f => exact ⟨nofun, nofun, fun _ h => h⟩

end Sys2Proof.Machine
end

section
/-! PROOFS. The command words (30_encoding.md R61 to R67, R70). First the fields of a word as numbers, which determine it;
then the tables of R62 to R64 and the codes they list, inverse to each other; then decoding against encoding; last the two
errors of decoding, both read off one table of the algorithms of each operation. -/

namespace Sys2Proof.Machine

/-! ### The fields of a word (R61, R70) -/

section Fields
variable (w : Word) (op : Op) (alg : Byte) (keep : Bool)

theorem toNat_opField : (opField w).toNat = w.toNat % 0x100 := by
  simp [opField]

theorem toNat_algField : (algField w).toNat = w.toNat / 0x100 % 0x100 := by
  simp [algField, Nat.shiftRight_eq_div_pow]

theorem toNat_keepField : (keepField w).toNat = w.toNat / 0x10000 % 2 := Nat.toNat_testBit w.toNat 16

theorem toNat_reservedField : (reservedField w).toNat = w.toNat / 0x20000 := by
  have hw := w.isLt
  simp only [reservedField, BitVec.extractLsb'_toNat, Nat.shiftRight_eq_div_pow]
  omega

/-- The three parts of R70 have no bit in common, so their disjunction is their sum. -/
theorem toNat_commandWord :
    (commandWord op alg keep).toNat = 2 ^ 16 * keep.toNat + (2 ^ 8 * alg.toNat + op.code.toNat) := by
  have hop := op.code.isLt
  have halg := alg.isLt
  have hbit := keep.toNat_le
  have hkeep : (if keep then 1#32 else 0#32).toNat = keep.toNat := by cases keep <;> rfl
  rw [Nat.two_pow_add_eq_or_of_lt (show 2 ^ 8 * alg.toNat + op.code.toNat < 2 ^ 16 by omega),
    Nat.two_pow_add_eq_or_of_lt hop, commandWord, BitVec.toNat_or, BitVec.toNat_or, Nat.or_assoc]
  simp (disch := omega) only [BitVec.toNat_shiftLeft, BitVec.toNat_setWidth, hkeep, Nat.shiftLeft_eq, Nat.mod_eq_of_lt,
    Nat.mul_comm]

@[simp] theorem opField_commandWord : opField (commandWord op alg keep) = op.code := by
  apply BitVec.eq_of_toNat_eq
  rw [toNat_opField, toNat_commandWord]
  omega

@[simp] theorem algField_commandWord : algField (commandWord op alg keep) = alg := by
  apply BitVec.eq_of_toNat_eq
  rw [toNat_algField, toNat_commandWord]
  omega

@[simp] theorem keepField_commandWord : keepField (commandWord op alg keep) = keep := by
  have hbit := keep.toNat_le
  rw [Bool.eq_iff_iff, ← Bool.toNat_eq_one, ← Bool.toNat_eq_one, toNat_keepField, toNat_commandWord]
  omega

@[simp] theorem reservedField_commandWord : reservedField (commandWord op alg keep) = 0#15 := by
  have hbit := keep.toNat_le
  apply BitVec.eq_of_toNat_eq
  rw [toNat_reservedField, toNat_commandWord, BitVec.toNat_zero]
  omega

variable {w op}

/-- A word without reserved bits is made up of its other three fields. -/
theorem commandWord_fields (hreserved : reservedField w = 0#15) (hop : opField w = op.code) :
    commandWord op (algField w) (keepField w) = w := by
  have hhigh : w.toNat / 0x20000 = 0 := by rw [← toNat_reservedField, hreserved, BitVec.toNat_zero]
  apply BitVec.eq_of_toNat_eq
  rw [toNat_commandWord, ← hop, toNat_opField, toNat_algField, toNat_keepField]
  omega

end Fields

/-! ### The tables of operations and algorithms (R62, R63, R64) -/

section Tables
variable {code alg : Byte}

@[simp] theorem ofCode_code (op : Op) : Op.ofCode op.code = some op := by cases op <;> rfl

theorem of_ite_some_eq_some {α : Type} {p : Prop} [Decidable p] {a b : α} {o : Option α}
    (h : (if p then some a else o) = some b) : (p ∧ a = b) ∨ o = some b := by
  split at h
  case isTrue hp => exact .inl ⟨hp, Option.some.inj h⟩
  case isFalse => exact .inr h

theorem ite_some_eq_none {α : Type} {p : Prop} [Decidable p] {a : α} {o : Option α} :
    (if p then some a else o) = none ↔ ¬ p ∧ o = none := by
  split <;> simp [*]

theorem code_of_ofCode {op : Op} (h : Op.ofCode code = some op) : code = op.code := by
  unfold Op.ofCode at h
  iterate 15
    obtain ⟨rfl, rfl⟩ | h := of_ite_some_eq_some h
    · rfl
  cases h

theorem number_of_hash {hash : HashAlg} (h : HashAlg.ofNumber alg = some hash) : alg = hash.number := by
  unfold HashAlg.ofNumber at h
  iterate 2
    obtain ⟨rfl, rfl⟩ | h := of_ite_some_eq_some h
    · rfl
  cases h

theorem number_of_cipher {c : Cipher} (h : Cipher.ofNumber alg = some c) : alg = c.number := by
  unfold Cipher.ofNumber at h
  iterate 5
    obtain ⟨rfl, rfl⟩ | h := of_ite_some_eq_some h
    · rfl
  cases h

theorem ofCode_eq_none_iff : Op.ofCode code = none ↔
    code.toNat ∉ [0x00, 0x01, 0x02, 0x03, 0x04, 0x05, 0x10, 0x20, 0x30, 0x40, 0x41, 0x42, 0x50, 0x60, 0x70] := by
  simp [Op.ofCode, BitVec.toNat_eq, ite_some_eq_none]

theorem hash_eq_none_iff : HashAlg.ofNumber alg = none ↔ alg.toNat ∉ [0, 1] := by
  simp [HashAlg.ofNumber, BitVec.toNat_eq, ite_some_eq_none]

theorem cipher_eq_none_iff : Cipher.ofNumber alg = none ↔ alg.toNat ∉ [16, 17, 18, 25, 26] := by
  simp [Cipher.ofNumber, BitVec.toNat_eq, ite_some_eq_none]

end Tables

/-! ### Decoding what was encoded (R66, R70) -/

section DecodeEncode
variable {w : Word} {op : Op} {alg : Byte} {keep : Bool} {i : Instr}

theorem decode_of_reserved (h : reservedField w ≠ 0#15) : decode w = .error .illegalCommand := if_pos h

theorem decode_of_unassigned (hreserved : reservedField w = 0#15) (hop : Op.ofCode (opField w) = none) :
    decode w = .error .illegalCommand := by
  simp [decode, hreserved, hop]

theorem decode_of_assigned (hreserved : reservedField w = 0#15) (hop : Op.ofCode (opField w) = some op) :
    decode w = decodeOp op (algField w) (keepField w) := by
  simp [decode, hreserved, hop]

theorem decode_commandWord (op : Op) (alg : Byte) (keep : Bool) :
    decode (commandWord op alg keep) = decodeOp op alg keep := by
  rw [decode_of_assigned (op := op) (by simp) (by simp), algField_commandWord, keepField_commandWord]

theorem decode_encode (i : Instr) : decode (encode i) = .ok i := by
  cases i <;> exact decode_commandWord _ _ _

theorem withoutAlg_eq_ok {j : Instr} (h : withoutAlg alg i = .ok j) : alg = 0#8 ∧ j = i := by
  unfold withoutAlg at h
  split at h
  · cases h
    exact ⟨by assumption, rfl⟩
  · cases h

theorem encode_of_decodeOp (h : decodeOp op alg keep = .ok i) : encode i = commandWord op alg keep := by
  cases op with
  | hmac | pbkdf2 =>
    simp only [decodeOp, decodeHmac, decodePbkdf2] at h
    cases halg : HashAlg.ofNumber alg <;> rw [halg] at h
    case none => cases h
    case some hash =>
      rw [number_of_hash halg]
      cases hash <;> cases h <;> rfl
  | cmac | dr | dk | r2k =>
    simp only [decodeOp, decodeCmac, decodeDr, decodeDk, decodeR2k] at h
    cases halg : Cipher.ofNumber alg <;> rw [halg] at h
    case none => cases h
    case some c =>
      rw [number_of_cipher halg]
      cases c <;> cases h <;> rfl
  | _ => -- the operations that take no algorithm
    obtain ⟨rfl, rfl⟩ := withoutAlg_eq_ok h
    rfl

theorem encode_of_decode (h : decode w = .ok i) : encode i = w := by
  by_cases hreserved : reservedField w = 0#15
  · cases hop : Op.ofCode (opField w) with
    | none => cases (decode_of_unassigned hreserved hop).symm.trans h
    | some op =>
      rw [decode_of_assigned hreserved hop] at h
      rw [encode_of_decodeOp h, commandWord_fields hreserved (code_of_ofCode hop)]
  · cases (decode_of_reserved hreserved).symm.trans h

end DecodeEncode

/-- Settles O1: the fields of a word that decodes make up that word again, and an encoded command has its own fields. -/
theorem decodeAcceptsExactlyEncodedWords : Obligations.DecodeAcceptsExactlyEncodedWords := by
  intro w i
  constructor
  · intro h
    exact (encode_of_decode h).symm
  · rintro rfl
    exact decode_encode i

/-- Settles O2: each word written out is the encoded word of its command. -/
theorem decodeReadsWrittenWords : Obligations.DecodeReadsWrittenWords :=
  ⟨decode_encode (.nfold false), decode_encode (.hmacMd5 false), decode_encode (.cmacCam128 false),
    decode_encode (.dkAes128 true), decode_encode (.pbkdf2Sha1 false)⟩

/-! ### The errors of decoding (R66, R67) -/

/-- The `ALG` numbers that an operation takes (R63, R64, R66); an operation without algorithm takes the number 0. -/
def opAlgorithms : Op → List Nat
  | .hmac => [0, 1]
  | .cmac => [17, 18, 25, 26]
  | .dr | .dk | .r2k => [16, 17, 18, 25, 26]
  | _ => [0]

/-- The error of an operation whose `ALG` it does not take (R66). -/
def opRejection : Op → ErrorKind
  | .hmac | .pbkdf2 | .cmac | .dr | .dk | .r2k => .unsupportedAlgorithm
  | _ => .illegalCommand

section DecodeErrors
variable {w : Word} {op : Op} {alg : Byte} {keep : Bool} {e : ErrorKind}

theorem withoutAlg_eq_error_iff (i : Instr) :
    withoutAlg alg i = .error e ↔ alg.toNat ∉ [0] ∧ .illegalCommand = e := by
  unfold withoutAlg
  split
  case isTrue h => simp [h]
  case isFalse h =>
    rw [BitVec.toNat_eq] at h
    simpa using fun _ => h

/-- Decoding an operation fails exactly when its table does not list the algorithm. -/
theorem decodeOp_eq_error_iff :
    decodeOp op alg keep = .error e ↔ alg.toNat ∉ opAlgorithms op ∧ opRejection op = e := by
  cases op with
  | hmac | pbkdf2 =>
    simp only [decodeOp, decodeHmac, decodePbkdf2, opAlgorithms, opRejection]
    cases halg : HashAlg.ofNumber alg with
    | none =>
      have := hash_eq_none_iff.1 halg
      simp_all
    | some hash =>
      rw [number_of_hash halg]
      cases hash <;> simp [HashAlg.number]
  | cmac | dr | dk | r2k =>
    simp only [decodeOp, decodeCmac, decodeDr, decodeDk, decodeR2k, opAlgorithms, opRejection]
    cases halg : Cipher.ofNumber alg with
    | none =>
      have := cipher_eq_none_iff.1 halg
      simp_all
    | some c =>
      rw [number_of_cipher halg]
      cases c <;> simp [Cipher.number]
  | _ => exact withoutAlg_eq_error_iff _

end DecodeErrors

/-- Settles O3: a word with reserved bits or an unassigned operation is illegal, which is read off its fields; any other word
fails as the table of its operation says. -/
theorem decodeErrorsFollowTheFields : Obligations.DecodeErrorsFollowTheFields := by
  intro w
  rw [← toNat_opField, ← toNat_algField, ← toNat_reservedField]
  by_cases hreserved : reservedField w = 0#15
  · cases hop : Op.ofCode (opField w) with
    | none =>
      have hnot := ofCode_eq_none_iff.1 hop
      rw [decode_of_unassigned hreserved hop]
      simp_all
    | some op =>
      rw [decode_of_assigned hreserved hop, hreserved, code_of_ofCode hop]
      simp only [ne_eq, decodeOp_eq_error_iff]
      cases op <;> simp [opAlgorithms, opRejection, Op.code]
  · have hne : (reservedField w).toNat ≠ 0 := fun h => hreserved (BitVec.eq_of_toNat_eq h)
    rw [decode_of_reserved hreserved]
    simp [hne]

end Sys2Proof.Machine
end

section
/-! PROOFS. `KEEP` (30_encoding.md R65, 70_reset_and_hazards.md R267). First the commands that look at it: each tests its
parameters and then either raises the error or publishes, and both ends treat `K` alike. Then the commands that do not. -/

namespace Sys2Proof.Machine

/-! ### The key-using commands -/

/-- With `KEEP` = 1 the command leaves `K`; with `KEEP` = 0 it does the same but for erasing `K`. -/
def ErasesUnlessKept (cmd : Bool → State → Result) : Prop :=
  ∀ s : State, ∃ t, cmd true s = .next t ∧ t.key = s.key ∧ cmd false s = .next { t with key := Operand.empty }

/-- The shape of every key-using command (R60): a test of the parameters, then the error epilogue or the result. -/
def checkedKeyed (bad : State → Bool) (result : State → Bytes) (keep : Bool) (s : State) : Result :=
  if bad s then .next (raiseError .invalidParameter (!keep) s) else .next (publishKeyed keep (result s) s)

theorem erasesUnlessKept_checkedKeyed (bad : State → Bool) (result : State → Bytes) :
    ErasesUnlessKept (checkedKeyed bad result) := by
  intro s
  unfold checkedKeyed
  split
  case isTrue => exact ⟨raiseError .invalidParameter false s, rfl, rfl, rfl⟩
  case isFalse => exact ⟨publishKeyed true (result s) s, rfl, rfl, rfl⟩

theorem erasesUnlessKept_hmac (alg : HashAlg) : ErasesUnlessKept (hmacCommand alg) :=
  erasesUnlessKept_checkedKeyed State.badHmac fun s => hmac alg s.key.valid s.msg.valid

theorem erasesUnlessKept_cmac (c : Cipher) : ErasesUnlessKept (cmacCommand c) :=
  erasesUnlessKept_checkedKeyed (fun s => s.badCmac (cipherKeySize c)) fun s =>
    cmac s.cfg.cores c s.key.valid s.msg.valid

theorem erasesUnlessKept_dr (c : Cipher) : ErasesUnlessKept (drCommand c) :=
  erasesUnlessKept_checkedKeyed (fun s => s.badDerive (cipherKeySize c)) fun s =>
    deriveRandom s.cfg.cores c s.key.valid s.aux.valid

theorem erasesUnlessKept_dk (c : Cipher) : ErasesUnlessKept (dkCommand c) :=
  erasesUnlessKept_checkedKeyed (fun s => s.badDerive (cipherKeySize c)) fun s =>
    deriveKey s.cfg.cores c s.key.valid s.aux.valid

theorem erasesUnlessKept_r2k (c : Cipher) : ErasesUnlessKept (r2kCommand c) :=
  erasesUnlessKept_checkedKeyed (fun s => s.badRandomToKey (cipherKeyInputSize c)) fun s => randomToKey c s.key.valid

theorem erasesUnlessKept_pbkdf2 : ErasesUnlessKept execPbkdf2Sha1 :=
  erasesUnlessKept_checkedKeyed State.badPbkdf2 fun s =>
    pbkdf2 s.key.valid s.aux.valid s.iter.toNat s.reqlen.toNat

/-- Settles O23: the 22 commands are those of six families, each of the shape of a key-using command. -/
theorem keyUsingCommandsEraseTheKey : Obligations.KeyUsingCommandsEraseTheKey := by
  unfold Obligations.KeyUsingCommandsEraseTheKey
  simp only [List.forall_mem_append, List.forall_mem_cons, List.not_mem_nil, false_implies, implies_true, and_true]
  refine ⟨⟨⟨⟨?hmacSha1, ?hmacMd5, ?cmacs⟩, ?drs⟩, ?dks⟩, ?r2ks⟩
  case hmacSha1 => exact erasesUnlessKept_hmac .sha1
  case hmacMd5 => exact erasesUnlessKept_hmac .md5
  case cmacs =>
    exact ⟨erasesUnlessKept_cmac .aes128, erasesUnlessKept_cmac .aes256, erasesUnlessKept_cmac .cam128,
      erasesUnlessKept_cmac .cam256⟩
  case drs =>
    exact ⟨erasesUnlessKept_dr .des3, erasesUnlessKept_dr .aes128, erasesUnlessKept_dr .aes256,
      erasesUnlessKept_dr .cam128, erasesUnlessKept_dr .cam256⟩
  case dks =>
    exact ⟨erasesUnlessKept_dk .des3, erasesUnlessKept_dk .aes128, erasesUnlessKept_dk .aes256,
      erasesUnlessKept_dk .cam128, erasesUnlessKept_dk .cam256⟩
  case r2ks =>
    exact ⟨erasesUnlessKept_r2k .des3, erasesUnlessKept_r2k .aes128, erasesUnlessKept_r2k .aes256,
      erasesUnlessKept_r2k .cam128, erasesUnlessKept_r2k .cam256, erasesUnlessKept_pbkdf2⟩

/-! ### The other commands -/

/-- A command of this kind that tests its parameters leaves `K` if its work does; the error epilogue erases nothing. -/
theorem key_eq_of_error_or {s t u : State} {bad ok : Prop} {e : ErrorKind}
    (h : (bad ∧ t = raiseError e false s) ∨ (ok ∧ t = u)) (hu : u.key = s.key) : t.key = s.key := by
  obtain ⟨-, rfl⟩ | ⟨-, rfl⟩ := h
  · rfl
  · exact hu

/-- Whatever the command answers, `K` is as it was. -/
def KeepsKey (cmd : Bool → State → Result) : Prop :=
  ∀ (keep : Bool) (s t : State), cmd keep s = .next t → t.key = s.key

theorem keepsKey_nop : KeepsKey execNop := by
  intro keep s t h
  rw [execNop_next h, publish_key]

theorem keepsKey_out2aux : KeepsKey execOut2aux := fun _ _ _ h => key_eq_of_error_or (execOut2aux_next h) rfl

theorem keepsKey_out2msg : KeepsKey execOut2msg := fun _ _ _ h => key_eq_of_error_or (execOut2msg_next h) rfl

theorem keepsKey_trunc : KeepsKey execTrunc := fun _ _ _ h => key_eq_of_error_or (execTrunc_next h) rfl

theorem keepsKey_nfold : KeepsKey execNfold := fun _ _ _ h => key_eq_of_error_or (execNfold_next h) rfl

theorem keepsKey_conf : KeepsKey execConf := fun _ _ _ h => key_eq_of_error_or (execConf_next h) rfl

theorem keepsKey_maccmp : KeepsKey execMaccmp := by
  intro keep s t h
  obtain ⟨-, rfl⟩ | ⟨-, -, rfl⟩ | ⟨-, -, rfl⟩ := execMaccmp_next h
  · exact raiseError_key _ _ _
  · exact raiseError_key _ _ _
  · rfl

/-- Settles O24: a meaning that does not read `KEEP` is one function of the state; what it can do to `K` is said by the lemma
of each command. -/
theorem otherCommandsIgnoreKeep : Obligations.OtherCommandsIgnoreKeep := by
  unfold Obligations.OtherCommandsIgnoreKeep
  simp only [List.forall_mem_cons, List.not_mem_nil, false_implies, implies_true, and_true]
  refine ⟨?ignored, ?keyLeft⟩
  case ignored =>
    exact ⟨fun _ => rfl, fun _ => rfl, fun _ => rfl, fun _ => rfl, fun _ => rfl, fun _ => rfl, fun _ => rfl,
      fun _ => rfl, fun _ => rfl⟩
  case keyLeft =>
    exact ⟨keepsKey_nop, keepsKey_out2aux, keepsKey_out2msg, keepsKey_trunc, keepsKey_nfold, keepsKey_conf,
      keepsKey_maccmp⟩

end Sys2Proof.Machine
end

section
/-! PROOFS. Loading an operand register (30_encoding.md R71, 70_reset_and_hazards.md R270). First the bytes after a string has
been written one by one; then the load of any register that takes byte writes and a write of its length; last the three
registers that do. -/

namespace Sys2Proof.Machine

/-! ### A string written byte by byte (R43) -/

/-- The bytes of a register after those of a string have been written to it from index `i` on. -/
def storeBytes (m : Memory) (i : Nat) : Bytes → Memory
  | [] => m
  | b :: rest => storeBytes (Memory.write m i b) (i + 1) rest

theorem read_storeBytes {m : Memory} (hwf : Memory.wf m) (i : Nat) (v : Bytes) (j : Nat) :
    Memory.read (storeBytes m i v) j =
      if i ≤ j ∧ j < i + v.length then v.getD (j - i) 0#8 else Memory.read m j := by
  induction v generalizing m i with
  | nil =>
    have hout : ¬ (i ≤ j ∧ j < i + ([] : Bytes).length) := by simp only [List.length_nil]; omega
    rw [storeBytes, if_neg hout]
  | cons b v ih =>
    rw [storeBytes, ih (wf_write hwf i b), read_write hwf, List.length_cons]
    by_cases hij : j = i
    · subst hij
      rw [if_neg (by omega), if_pos rfl, if_pos (by omega), Nat.sub_self, List.getD_cons_zero]
    by_cases hin : i + 1 ≤ j ∧ j < i + 1 + v.length
    · rw [if_pos hin, if_pos (by omega), show j - i = j - (i + 1) + 1 by omega, List.getD_cons_succ]
    · rw [if_neg hin, if_neg hij, if_neg (by omega)]

theorem slice_storeBytes {m : Memory} (hwf : Memory.wf m) (v : Bytes) :
    Memory.slice (storeBytes m 0 v) v.length = v := by
  refine List.ext_getElem (length_slice _ _) fun i h1 h2 => ?_
  have hin : 0 ≤ i ∧ i < 0 + v.length := by omega
  simp only [Memory.slice, List.getElem_map, List.getElem_range, read_storeBytes hwf, if_pos hin]
  exact List.getD_eq_getElem _ _ h2

/-- The register that a load of `v` leaves. -/
def Operand.load (x : Operand) (v : Bytes) : Operand :=
  { bytes := storeBytes x.bytes 0 v, len := BitVec.ofNat 32 v.length }

theorem valid_load {x : Operand} {v : Bytes} (hwf : Memory.wf x.bytes) (hlen : v.length < 2 ^ 32) :
    (x.load v).valid = v := by
  have hn : (x.load v).len.toNat = v.length := Nat.mod_eq_of_lt hlen
  rw [Operand.valid, hn]
  exact slice_storeBytes hwf v

theorem read_load_of_le {x : Operand} {v : Bytes} {i : Nat} (hwf : Memory.wf x.bytes) (hi : v.length ≤ i) :
    Memory.read (x.load v).bytes i = Memory.read x.bytes i := by
  rw [Operand.load, read_storeBytes hwf, if_neg (by omega)]

/-! ### The run of a load -/

theorem run_succ {s t : State} (h : step s = .next t) (n : Nat) :
    Host.Core.run Sys2Proof.core (n + 1) s = Host.Core.run Sys2Proof.core n t := by
  have hcore : Sys2Proof.core.step s = .next t := h
  simp only [Host.Core.run, hcore]

/-- How an engine of parameters `c` takes the writes to an operand register of capacity `cap`: its window lies at offset
`off`, its length register is `r`, and `put bus x` is the engine with the actions `bus` pending and the register at `x`. -/
structure Loadable (c : Config) (off cap : Nat) (r : Reg) (put : List HostAction → Operand → State) : Prop where
  /-- A byte write below the capacity sets that byte (R43). -/
  writeByte (x : Operand) (b : Byte) (rest : List HostAction) (i : Nat) (hi : i < cap) :
    step (put (.write (c.base + (off + i)) 1 (b.setWidth 32) 0 :: rest) x) =
      .next (put rest { x with bytes := Memory.write x.bytes i b })
  /-- A write to the length register sets the length (R15). -/
  setLen (x : Operand) (v : Word) (rest : List HostAction) :
    step (put (.write (c.base + regOffset r) 4 v 0 :: rest) x) = .next (put rest { x with len := v })

section Load
variable {c : Config} {off cap : Nat} {r : Reg} {put : List HostAction → Operand → State}

/-- The byte writes of a load from index `i` on, and then whatever is pending behind them. -/
theorem Loadable.run_writeBytes (h : Loadable c off cap r put) (v : Bytes) (rest : List HostAction) (n : Nat)
    {x : Operand} {i : Nat} (hcap : i + v.length ≤ cap) :
    Host.Core.run Sys2Proof.core (v.length + n) (put (writeBytes c (off + i) v ++ rest) x) =
      Host.Core.run Sys2Proof.core n (put rest { x with bytes := storeBytes x.bytes i v }) := by
  induction v generalizing x i with
  | nil => rw [List.length_nil, Nat.zero_add, writeBytes, List.nil_append, storeBytes]
  | cons b v ih =>
    rw [List.length_cons] at hcap ⊢
    rw [writeBytes, List.cons_append, Nat.succ_add, run_succ (h.writeByte x b _ i (by omega)), Nat.add_assoc off,
      ih (by omega), storeBytes]

theorem Loadable.run_load (h : Loadable c off cap r put) {v : Bytes} (hcap : v.length ≤ cap) (rest : List HostAction)
    (x : Operand) :
    Host.Core.run Sys2Proof.core (v.length + 1) (put (writeBytes c off v ++ setReg c r v.length ++ rest) x) =
      .next (put rest (x.load v)) := by
  rw [List.append_assoc]
  calc Host.Core.run Sys2Proof.core (v.length + 1) (put (writeBytes c off v ++ (setReg c r v.length ++ rest)) x)
      = Host.Core.run Sys2Proof.core 1
          (put (setReg c r v.length ++ rest) { x with bytes := storeBytes x.bytes 0 v }) :=
        h.run_writeBytes v _ 1 (i := 0) (by omega)
    _ = .next (put rest (x.load v)) := run_succ (h.setLen _ _ rest) 0

/-- What a load leaves, for a capacity that the length register can count to. -/
theorem Loadable.loads (h : Loadable c off cap r put) (hwide : cap < 2 ^ 32) {v : Bytes} (hcap : v.length ≤ cap)
    {x : Operand} (hwf : Memory.wf x.bytes) (rest : List HostAction) :
    ∃ y : Operand, y.valid = v ∧ (∀ i, v.length ≤ i → Memory.read y.bytes i = Memory.read x.bytes i) ∧
      Host.Core.run Sys2Proof.core (v.length + 1) (put (writeBytes c off v ++ setReg c r v.length ++ rest) x) =
        .next (put rest y) :=
  ⟨x.load v, valid_load hwf (by omega), fun _ => read_load_of_le hwf, h.run_load hcap rest x⟩

end Load

/-! ### The three registers that the host loads -/

/-- The value of an 8-bit access carries its byte (log 11). -/
theorem setWidth_setWidth_byte (b : Byte) : (b.setWidth 32).setWidth 8 = b := by simp

theorem writeWindow_of_lt {cap i : Nat} (hi : i < cap) (x : Operand) (b : Byte) :
    writeWindow cap x i b = { x with bytes := Memory.write x.bytes i b } := if_pos hi

section Registers
variable {s : State}

theorem loadable_key (hbusy : s.busy = false) (hcap : s.cfg.keyCap ≤ 0x1000) :
    Loadable s.cfg 0x1000 s.cfg.keyCap .keylen fun bus x => { s with bus := bus, key := x } where
  writeByte x b rest i hi := by
    rw [step_writeByte (s := { s with bus := _, key := x }) hbusy (by omega) (by omega) rfl, writeAt_key (by omega),
      setWidth_setWidth_byte, writeWindow_of_lt hi]
  setLen x v rest := step_writeReg (s := { s with bus := _, key := x }) hbusy .keylen rfl

theorem loadable_aux (hbusy : s.busy = false) (hcap : s.cfg.auxCap ≤ 0x1000) :
    Loadable s.cfg 0x2000 s.cfg.auxCap .auxlen fun bus x => { s with bus := bus, aux := x } where
  writeByte x b rest i hi := by
    rw [step_writeByte (s := { s with bus := _, aux := x }) hbusy (by omega) (by omega) rfl, writeAt_aux (by omega),
      setWidth_setWidth_byte, writeWindow_of_lt hi]
  setLen x v rest := step_writeReg (s := { s with bus := _, aux := x }) hbusy .auxlen rfl

theorem loadable_msg (hbusy : s.busy = false) (hcap : s.cfg.msgCap ≤ 0x10000) :
    Loadable s.cfg 0x10000 s.cfg.msgCap .msglen fun bus x => { s with bus := bus, msg := x } where
  writeByte x b rest i hi := by
    rw [step_writeByte (s := { s with bus := _, msg := x }) hbusy (by omega) (by omega) rfl, writeAt_msg,
      setWidth_setWidth_byte, writeWindow_of_lt hi]
  setLen x v rest := step_writeReg (s := { s with bus := _, msg := x }) hbusy .msglen rfl

end Registers

/-- Settles O44: `K`, `A` and `M` are each loadable, and the state before the load is the one its pending actions and its
register make up. -/
theorem loadSequencesLoad : Obligations.LoadSequencesLoad := by
  intro s b rest hbusy hcfg
  obtain ⟨hkey, haux, -, hmsg⟩ := caps_le_of_wellFormed hcfg
  refine ⟨fun hb hwf hbus => ?key, fun hb hwf hbus => ?aux, fun hb hwf hbus => ?msg⟩
  case key =>
    have hloads := (loadable_key hbusy hkey).loads (by omega) hb hwf rest
    rwa [← ldk, ← hbus] at hloads
  case aux =>
    have hloads := (loadable_aux hbusy haux).loads (by omega) hb hwf rest
    rwa [← lda, ← hbus] at hloads
  case msg =>
    have hloads := (loadable_msg hbusy hmsg).loads (by omega) hb hwf rest
    rwa [← ldm, ← hbus] at hloads

end Sys2Proof.Machine
end

section
/-! PROOFS. The host that polls and reads out (30_encoding.md R71; driver: log 19). First the two reads that a poll can make, of
`STATUS` while the engine is busy and while it is not; then `STATUS` after a command, which ends the poll; then the reads of
`O`; last `RDO` after an error, which finds `O` empty (60_exceptions.md R233). -/

namespace Sys2Proof.Machine

section Driver
variable {s t : State} {v : Word} {rest : List HostOp}

/-! ### The items of a host program -/

theorem hostStep_access {a : HostAction} (h : step { s with bus := a :: s.bus } = .next t) :
    hostStep { todo := .access a :: rest, engine := s } = .next { todo := rest, engine := t } := by
  simp only [hostStep, issue, h]

theorem hostStep_access_of_perform {a : HostAction} (h : perform a s = .next t) :
    hostStep { todo := .access a :: rest, engine := s } = .next { todo := rest, engine := t } :=
  hostStep_access h

/-- The host goes on by the value that its read has returned. -/
theorem issue_of_read {a : HostAction} (h : perform a s = .next (reply v s)) (next : Word → List HostOp) :
    issue a next s = .next { todo := next v, engine := reply v s } := by
  rw [issue_of_perform h, reply_replies, List.getLastD_concat]

theorem hostStep_poll (h : perform (.read (s.cfg.base + 0x08) 4) s = .next (reply v s)) :
    hostStep { todo := .poll :: rest, engine := s } =
      .next { todo := if v.getLsbD 0 then .poll :: rest else rest, engine := reply v s } :=
  issue_of_read h fun v => if v.getLsbD 0 then .poll :: rest else rest

theorem hostStep_readOut (h : perform (.read (s.cfg.base + 0x1C) 4) s = .next (reply v s)) :
    hostStep { todo := .readOut :: rest, engine := s } =
      .next { todo := accesses (readsOfO s.cfg v.toNat) ++ rest, engine := reply v s } :=
  issue_of_read h fun v => accesses (readsOfO s.cfg v.toNat) ++ rest

/-! ### The poll of `CMD` (R16, R71) -/

/-- While `BUSY` = 1 a read of `STATUS` shows it alone (R266). -/
theorem perform_readStatus_of_busy (hbusy : s.busy = true) :
    perform (.read (s.cfg.base + 0x08) 4) s = .next (reply statusBusy s) := by
  rw [perform, atOffset_control (by decide) (by decide), performRead, if_pos hbusy, readBusy, if_pos rfl]

theorem hostStep_poll_of_busy (hbusy : s.busy = true) :
    hostStep { todo := .poll :: rest, engine := s } = .next { todo := .poll :: rest, engine := reply statusBusy s } :=
  hostStep_poll (perform_readStatus_of_busy hbusy)

theorem hostStep_poll_of_ready (hbusy : s.busy = false) :
    hostStep { todo := .poll :: rest, engine := s } =
      .next { todo := rest, engine := reply (s.status &&& statusMask) s } := by
  have hbit : (s.status &&& statusMask).getLsbD 0 = false := by
    rw [BitVec.getLsbD_and, show s.status.getLsbD 0 = false from hbusy, Bool.false_and]
  rw [hostStep_poll (perform_readReg hbusy .status), readReg, hbit, if_neg (by decide)]

/-! ### `CMD` (R60, R71) -/

/-- A command word, decoded or rejected, leaves `STATUS` at a value of a finished command. -/
theorem startCommand_status {w : Word} (h : startCommand w s = .next t) :
    (∃ m, t.status = statusDone m) ∨ ∃ e, t.status = statusError e := by
  obtain ⟨i, -, hi⟩ | ⟨e, -, rfl⟩ := startCommand_next h
  · obtain hdone | herror | ⟨-, hmatch⟩ := (exec_effect hi).status_eq
    · exact .inl ⟨false, hdone⟩
    · exact .inr herror
    · exact .inl ⟨true, hmatch⟩
  · exact .inr ⟨e, raiseError_status _ _ _⟩

theorem startCommand_not_busy {w : Word} (h : startCommand w s = .next t) : t.busy = false := by
  obtain ⟨m, hm⟩ | ⟨e, he⟩ := startCommand_status h
  · obtain ⟨hbusy, -⟩ := fields_of_statusDone hm
    exact hbusy
  · obtain ⟨hbusy, -⟩ := fields_of_statusError he
    exact hbusy

theorem startCommand_status_unmasked {w : Word} (h : startCommand w s = .next t) : t.status &&& statusMask = t.status := by
  obtain ⟨m, hm⟩ | ⟨e, he⟩ := startCommand_status h
  · rw [hm]
    cases m <;> decide
  · rw [he]
    cases e <;> decide

theorem startCommand_replies {w : Word} (h : startCommand w s = .next t) : t.replies = s.replies := by
  obtain ⟨i, -, hi⟩ | ⟨e, -, rfl⟩ := startCommand_next h
  · obtain ⟨-, -, hreplies, -⟩ := (exec_effect hi).host_fields
    exact hreplies
  · exact raiseError_replies _ _ _

/-- `CMD` takes two accesses, as the engine is never busy after the write. -/
theorem hostRun_cmdWord (hbusy : s.busy = false) {w : Word} {e : Nat}
    (h : startCommand w { s with source := e } = .next t) :
    hostRun 2 { todo := cmdWord s.cfg w e ++ rest, engine := s } =
      .next { todo := rest, engine := { t with replies := s.replies ++ [t.status] } } := by
  have hwrite : perform (commandWrite s.cfg w e) s = .next t := (perform_writeReg hbusy .cmd).trans h
  have hreplies : t.replies = s.replies :=
    startCommand_replies (s := { s with source := e }) h
  rw [cmdWord, List.cons_append, hostRun_succ (hostStep_access_of_perform hwrite), List.singleton_append,
    hostRun_succ (hostStep_poll_of_ready (startCommand_not_busy h)), hostRun_zero, startCommand_status_unmasked h, reply,
    hreplies]

/-! ### `RDO` (R43, R71) -/

theorem perform_readOutByte (hbusy : s.busy = false) (hcap : s.cfg.outCap ≤ 0x1000) {i : Nat} (hi : i < s.cfg.outCap) :
    perform (.read (s.cfg.base + 0x3000 + i) 1) s = .next (reply ((Memory.read s.out.bytes i).setWidth 32) s) := by
  have hlt : 0x3000 + i < windowSize := by unfold windowSize; omega
  rw [Nat.add_assoc, perform_readLegal hlt (legalAccess_byte (by omega)), performRead, if_neg (by simp [hbusy]),
    readAt_out (by omega), readWindow_of_lt hi]

/-- The reads of the bytes of `O` at a list of indices, each below the capacity. -/
theorem hostRun_readsOfBytes (hbusy : s.busy = false) (hcap : s.cfg.outCap ≤ 0x1000) (indices : List Nat)
    (hlt : ∀ i ∈ indices, i < s.cfg.outCap) :
    hostRun indices.length
        { todo := accesses (indices.map fun i => .read (s.cfg.base + 0x3000 + i) 1) ++ rest, engine := s } =
      .next { todo := rest, engine := { s with
        replies := s.replies ++ indices.map fun i => (Memory.read s.out.bytes i).setWidth 32 } } := by
  induction indices generalizing s with
  | nil => simp
  | cons i indices ih =>
    rw [List.forall_mem_cons] at hlt
    obtain ⟨hi, hlt⟩ := hlt
    rw [List.map_cons, accesses_cons, List.cons_append, List.length_cons,
      hostRun_succ (hostStep_access_of_perform (perform_readOutByte hbusy hcap hi))]
    refine (ih (s := reply _ s) hbusy hcap hlt).trans ?_
    rw [reply_replies, List.append_assoc, List.singleton_append, List.map_cons]
    rfl

theorem hostRun_rdo (hbusy : s.busy = false) (hcap : s.cfg.outCap ≤ 0x1000) (hlen : s.out.len.toNat ≤ s.cfg.outCap) :
    hostRun (s.out.len.toNat + 1) { todo := rdo ++ rest, engine := s } =
      .next { todo := rest, engine := { s with
        replies := s.replies ++ s.out.len :: s.out.valid.map fun b => b.setWidth 32 } } := by
  have hindices : ∀ i ∈ List.range s.out.len.toNat, i < s.cfg.outCap := fun i hi =>
    (List.mem_range.1 hi).trans_le hlen
  have hreads := hostRun_readsOfBytes (s := reply s.out.len s) (rest := rest) hbusy hcap _ hindices
  rw [List.length_range] at hreads
  rw [rdo, List.singleton_append, hostRun_succ (hostStep_readOut (perform_readReg hbusy .outlen))]
  refine hreads.trans ?_
  rw [reply_replies, List.append_assoc, List.singleton_append, Operand.valid, Memory.slice, List.map_map]
  rfl

/-! ### `RDO` after an error (R233) -/

/-- Of the effects of a command only the error epilogue sets `ERR`, and it empties `O`. -/
theorem CommandEffect.of_err {i : Instr} (h : CommandEffect s i t) (herr : t.err = true) :
    t.busy = false ∧ t.out = Operand.empty := by
  have hdone {m : Bool} (hm : t.status = statusDone m) : False := by
    obtain ⟨-, -, -, hnot, -⟩ := fields_of_statusDone hm
    simp [hnot] at herr
  cases h with
  | error i e eraseKey =>
    obtain ⟨hbusy, -⟩ := fields_of_statusError (raiseError_status e eraseKey s)
    exact ⟨hbusy, rfl⟩
  | maccmp => exact (hdone (m := true) rfl).elim
  | publish | publishKeyed | zeroize | out2key | out2aux | out2msg | conf => exact (hdone (m := false) rfl).elim

/-- With `O` empty the read of `OUTLEN` is the only one, whatever the parameters. -/
theorem hostRun_rdo_of_empty (hbusy : t.busy = false) (hout : t.out = Operand.empty) :
    hostRun 1 { todo := rdo ++ rest, engine := t } =
      .next { todo := rest, engine := { t with replies := t.replies ++ [0#32] } } := by
  have hread : readReg t .outlen = 0#32 := by rw [readReg, hout, operandEmpty_len]
  rw [rdo, List.singleton_append, hostRun_succ (hostStep_readOut (perform_readReg hbusy .outlen)), hread]
  rfl

end Driver

/-- Settles O60: the clauses are the item of an access, the two polls, `CMD`, and `RDO` with and without a result. -/
theorem hostPollsAndReadsOut : Obligations.HostPollsAndReadsOut := by
  intro s rest
  refine ⟨fun a t => hostStep_access, hostStep_poll_of_busy, hostStep_poll_of_ready, fun hbusy w e => ?cmd,
    fun hbusy hcfg hlen => ?rdo, fun i t h herr => ?error⟩
  case cmd =>
    obtain ⟨t, ht⟩ := startCommand_answers w { s with source := e }
    exact ⟨t, ht, hostRun_cmdWord hbusy ht⟩
  case rdo =>
    obtain ⟨-, -, hcap, -⟩ := caps_le_of_wellFormed hcfg
    exact hostRun_rdo hbusy hcap hlen
  case error =>
    obtain ⟨hbusy, hout⟩ := (exec_effect h).of_err herr
    exact hostRun_rdo_of_empty hbusy hout

end Sys2Proof.Machine
end

section
/-! PROOFS. The housekeeping commands (40_housekeeping.md R80 to R84). First the two ends of such a command written out field by
field; then `NOP` and `ZEROIZE`; then the three moves, which are one function of the destination's capacity and of the update
that stores to the destination. -/

namespace Sys2Proof.Machine

/-! ### The ends of a command that leaves `O` empty (R60 step 7, R233) -/

theorem statusDone_false : statusDone false = 0x00000002#32 := rfl

/-- Publishing the empty string empties `O` (R60). -/
theorem publish_empty (s : State) : publish [] s = { s with out := Operand.empty, status := 0x00000002#32 } := rfl

/-- R233 for `InvalidParameter`: its code is 2, so bit 2 of `ERRLOG`. -/
theorem raiseError_invalidParameter (s : State) :
    raiseError .invalidParameter false s =
      { s with out := Operand.empty, errlog := s.errlog ||| 0x00000004#32, status := 0x00000206#32 } := rfl

/-! ### `NOP` and `ZEROIZE` (R80, R81) -/

/-- Settles O4: `NOP` publishes the empty string. -/
theorem nopEmptiesTheResult : Obligations.NopEmptiesTheResult := by
  refine ⟨decode_encode (.nop false), decode_encode (.nop true), read_operandEmpty, operandEmpty_len, fun keep s => ?_⟩
  rw [exec_nop, execNop, publish_empty]

/-- The state after `ZEROIZE` is that after reset but for `STATUS`, `ERRLOG` and the model's own fields (R81). -/
theorem execZeroize_eq_reset (keep : Bool) (s : State) :
    execZeroize keep s =
      .next { State.resetWith s.cfg with status := 0x00000002#32, errlog := s.errlog,
                                         bus := s.bus, replies := s.replies, source := s.source, fresh := s.fresh } := rfl

/-- Settles O5: `ZEROIZE` clears field by field what a reset clears. -/
theorem zeroizeErasesEverything : Obligations.ZeroizeErasesEverything := by
  refine ⟨decode_encode (.zeroize false), read_operandEmpty, operandEmpty_len, fun keep s => ⟨?fields, ?reset⟩⟩
  case fields => rw [exec_zeroize, execZeroize, statusDone_false]
  case reset => rw [exec_zeroize, execZeroize_eq_reset]

/-! ### The moves (R82, R83, R84) -/

section Moves
variable {s : State} {cap : Nat}

/-- The valid bytes stored anew keep their length: it is the value of a length register already. -/
theorem ofBytes_valid_len (x : Operand) : (Operand.ofBytes x.valid).len = x.len := by
  rw [ofBytes_len, length_valid, BitVec.ofNat_toNat, BitVec.setWidth_eq]

/-- The valid bytes stored anew are themselves, with zeros after them (R8). -/
theorem read_ofBytes_valid (x : Operand) (i : Nat) :
    Memory.read (Operand.ofBytes x.valid).bytes i = if i < x.len.toNat then Memory.read x.bytes i else 0#8 := by
  rw [ofBytes_bytes, read_place, if_pos (Nat.zero_le i), Nat.sub_zero, Operand.valid, getD_slice]

theorem outTooLong_iff :
    (s.outOver || s.outExceeds cap) = true ↔ s.cfg.outCap < s.out.len.toNat ∨ cap < s.out.len.toNat := by
  simp only [State.outOver, State.outExceeds, Bool.or_eq_true, decide_eq_true_eq]

/-- The shape of every move: the test of `OUTLEN`, then the error epilogue, or `put` of the valid bytes of `O` and `O` emptied. -/
def checkedMove (cap : Nat) (put : Operand → State) (s : State) : Result :=
  if s.outOver || s.outExceeds cap then .next (raiseError .invalidParameter false s)
  else .next (publish [] (put (Operand.ofBytes s.out.valid)))

theorem execOut2key_eq_checkedMove (keep : Bool) (s : State) :
    execOut2key keep s = checkedMove s.cfg.keyCap (fun x => { s with key := x }) s := rfl

theorem execOut2aux_eq_checkedMove (keep : Bool) (s : State) :
    execOut2aux keep s = checkedMove s.cfg.auxCap (fun x => { s with aux := x }) s := rfl

theorem execOut2msg_eq_checkedMove (keep : Bool) (s : State) :
    execOut2msg keep s = checkedMove s.cfg.msgCap (fun x => { s with msg := x }) s := rfl

theorem checkedMove_of_fits (put : Operand → State) (hout : s.out.len.toNat ≤ s.cfg.outCap)
    (hcap : s.out.len.toNat ≤ cap) :
    ∃ x : Operand, x.len = s.out.len ∧
      (∀ i, Memory.read x.bytes i = if i < s.out.len.toNat then Memory.read s.out.bytes i else 0#8) ∧
      checkedMove cap put s = .next { put x with out := Operand.empty, status := 0x00000002#32 } := by
  refine ⟨Operand.ofBytes s.out.valid, ofBytes_valid_len s.out, read_ofBytes_valid s.out, ?_⟩
  have hfits : ¬ (s.outOver || s.outExceeds cap) = true := by
    rw [outTooLong_iff]
    omega
  rw [checkedMove, if_neg hfits, publish_empty]

theorem checkedMove_of_tooLong (put : Operand → State) (h : s.cfg.outCap < s.out.len.toNat ∨ cap < s.out.len.toNat) :
    checkedMove cap put s =
      .next { s with out := Operand.empty, errlog := s.errlog ||| 0x00000004#32, status := 0x00000206#32 } := by
  rw [checkedMove, if_pos (outTooLong_iff.2 h), raiseError_invalidParameter]

end Moves

/-- Settles O6: each of the three commands is the move to its destination, which the two lemmas of `checkedMove` describe. -/
theorem movesTransferTheResult : Obligations.MovesTransferTheResult := by
  refine ⟨decode_encode (.out2key false), decode_encode (.out2aux false), decode_encode (.out2msg false),
    fun keep s => ?_⟩
  rw [exec_out2key, exec_out2aux, exec_out2msg, execOut2key_eq_checkedMove, execOut2aux_eq_checkedMove,
    execOut2msg_eq_checkedMove]
  exact ⟨checkedMove_of_fits fun x => { s with key := x }, checkedMove_of_tooLong _,
    checkedMove_of_fits fun x => { s with aux := x }, checkedMove_of_tooLong _,
    checkedMove_of_fits fun x => { s with msg := x }, checkedMove_of_tooLong _⟩

end Sys2Proof.Machine
end

section
/-! PROOFS. The n-fold unit (41_nfold.md). First the bits of a string as the bits of its number, by which the rotation of R91 is
settled; then the one's-complement sum of R92 as the representative of a number modulo `2^(8n) - 1`; then the copies of R91
and the fold, assembled from the two; last the command (R93). -/

namespace Sys2Proof.Machine

/-! ### The bits of a string (R7, R91) -/

theorem pow_256_eq_two_pow (n : Nat) : 256 ^ n = 2 ^ (8 * n) := (pow_mul 2 8 n).symm

theorem bytesToNat_lt_two_pow (b : Bytes) : bytesToNat b < 2 ^ (8 * b.length) :=
  (bytesToNat_lt b).trans_eq (pow_256_eq_two_pow b.length)

theorem bitAt_cons (x : Byte) (b : Bytes) (p : Nat) :
    bitAt (x :: b) p = if p < 8 then x.getMsbD p else bitAt b (p - 8) := by
  split
  case isTrue h => rw [bitAt, Nat.div_eq_of_lt h, Nat.mod_eq_of_lt h, List.getD_cons_zero]
  case isFalse h =>
    obtain ⟨q, rfl⟩ := Nat.exists_eq_add_of_le' (Nat.le_of_not_lt h)
    rw [bitAt, Nat.add_div_right q (by decide), Nat.add_mod_right, List.getD_cons_succ, Nat.add_sub_cancel, bitAt]

/-- Position 0 of a string is the highest bit of its number. -/
theorem bitAt_eq_testBit {b : Bytes} {p : Nat} (hp : p < 8 * b.length) :
    bitAt b p = (bytesToNat b).testBit (8 * b.length - 1 - p) := by
  induction b generalizing p with
  | nil => simp at hp
  | cons x b ih =>
    rw [List.length_cons] at hp ⊢
    rw [bitAt_cons, bytesToNat_cons, pow_256_eq_two_pow, Nat.mul_comm, Nat.testBit_two_pow_mul_add _
      (bytesToNat_lt_two_pow b)]
    by_cases hfirst : p < 8
    · rw [if_pos hfirst, if_neg (by omega), BitVec.getMsbD, decide_eq_true hfirst, Bool.true_and, BitVec.getLsbD]
      congr 1
      omega
    · rw [if_neg hfirst, if_pos (by omega), ih (by omega)]
      congr 1
      omega

/-! ### The rotation (R91) -/

/-- The number of the rotated string: its `k` low bits moved above the others. -/
theorem bytesToNat_nfoldRot (b : Bytes) (r : Nat) :
    bytesToNat (nfoldRot b r) =
      (bytesToNat b >>> (r % (8 * b.length)) |||
        bytesToNat b <<< (8 * b.length - r % (8 * b.length))) % 2 ^ (8 * b.length) := by
  rw [nfoldRot, bytesToNat_natToBytes, pow_256_eq_two_pow, Nat.or_mod_two_pow, Nat.mod_mod, ← Nat.or_mod_two_pow]

@[simp] theorem length_nfoldRot (b : Bytes) (r : Nat) : (nfoldRot b r).length = b.length := length_natToBytes _ _

/-- In a number of `bits` bits rotated right by `k`, the bit that was at position `p` from the top is at `(p + k) mod bits`:
it comes from the right shift if `p + k` stays below `bits`, from the left shift otherwise. -/
theorem testBit_rotateRight {v bits k p : Nat} (hv : v < 2 ^ bits) (hk : k < bits) (hp : p < bits) :
    ((v >>> k ||| v <<< (bits - k)) % 2 ^ bits).testBit (bits - 1 - (p + k) % bits) = v.testBit (bits - 1 - p) := by
  have hlow : bits - 1 - (p + k) % bits < bits := by omega
  rw [Nat.testBit_mod_two_pow, decide_eq_true hlow, Bool.true_and, Nat.testBit_or, Nat.testBit_shiftRight,
    Nat.testBit_shiftLeft]
  by_cases hwrap : p + k < bits
  · rw [Nat.mod_eq_of_lt hwrap, show k + (bits - 1 - (p + k)) = bits - 1 - p by omega,
      decide_eq_false (by omega), Bool.false_and, Bool.or_false]
  · have hover : v.testBit (k + (bits - 1 - (p + k - bits))) = false :=
      Nat.testBit_lt_two_pow (hv.trans_le (Nat.pow_le_pow_right (by decide) (by omega)))
    rw [Nat.mod_eq_sub_mod (by omega), Nat.mod_eq_of_lt (by omega), hover, Bool.false_or, decide_eq_true (by omega),
      Bool.true_and]
    congr 1
    omega

theorem bitAt_nfoldRot {b : Bytes} {p : Nat} (r : Nat) (hp : p < 8 * b.length) :
    bitAt (nfoldRot b r) ((p + r) % (8 * b.length)) = bitAt b p := by
  have hpos : 0 < 8 * b.length := by omega
  have hq : (p + r) % (8 * b.length) < 8 * (nfoldRot b r).length := by
    rw [length_nfoldRot]
    exact Nat.mod_lt _ hpos
  rw [bitAt_eq_testBit hq, bitAt_eq_testBit hp, length_nfoldRot, bytesToNat_nfoldRot, ← Nat.add_mod_mod p r]
  exact testBit_rotateRight (bytesToNat_lt_two_pow b) (Nat.mod_lt r hpos) hp

/-- Settles O45: the rotation keeps the length and moves the bits of the number of the string. -/
theorem nfoldRotationMovesBits : Obligations.NfoldRotationMovesBits :=
  fun b r _ hp => ⟨length_nfoldRot b r, bitAt_nfoldRot r hp⟩

theorem nfoldRot_zero (b : Bytes) : nfoldRot b 0 = b := by
  rw [nfoldRot, Nat.zero_mod, Nat.sub_zero, Nat.shiftRight_zero, Nat.shiftLeft_eq, Nat.mul_mod_left, Nat.or_zero,
    natToBytes_bytesToNat]

/-! ### One's-complement addition (R92) -/

@[simp] theorem bytesToNat_zeros (n : Nat) : bytesToNat (zeros n) = 0 := by
  induction n with
  | zero => rfl
  | succ n ih =>
    rw [zeros, List.replicate_succ, bytesToNat_cons, BitVec.toNat_zero, Nat.zero_mul, Nat.zero_add]
    exact ih

/-- The representative of `x` modulo `2^(8n) - 1` in `1 .. 2^(8n) - 1`, or 0 for 0. -/
def onesRep (n x : Nat) : Nat := if x = 0 then 0 else (x - 1) % (2 ^ (8 * n) - 1) + 1

theorem onesRep_of_lt {n x : Nat} (h : x < 2 ^ (8 * n)) : onesRep n x = x := by
  rw [onesRep]
  split
  case isTrue hzero => exact hzero.symm
  case isFalse hpos =>
    rw [Nat.mod_eq_of_lt (by omega)]
    omega

/-- A carry out of the top is worth one: `2^(8n)` is 1 modulo `2^(8n) - 1`. -/
theorem onesRep_of_carry {n x : Nat} (hcarry : 2 ^ (8 * n) ≤ x) (h : x < 2 ^ (8 * n) + (2 ^ (8 * n) - 1)) :
    onesRep n x = x - 2 ^ (8 * n) + 1 := by
  rw [onesRep, if_neg (by omega), Nat.mod_eq_sub_mod (by omega), Nat.mod_eq_of_lt (by omega)]
  omega

/-- Sums may be reduced as they go. -/
theorem onesRep_onesRep_add (n x y : Nat) : onesRep n (onesRep n x + y) = onesRep n (x + y) := by
  cases x with
  | zero => rw [onesRep_of_lt (x := 0) (by positivity)]
  | succ x =>
    simp only [onesRep, Nat.add_right_comm _ 1 y, Nat.succ_ne_zero, if_false, Nat.add_sub_cancel, Nat.mod_add_mod]

section Sum
variable {n : Nat} {a b : Bytes}

theorem bytesToNat_ocadd (ha : a.length = n) (hb : b.length = n) :
    bytesToNat (ocadd n a b) = onesRep n (bytesToNat a + bytesToNat b) := by
  have halt := bytesToNat_lt_two_pow a
  have hblt := bytesToNat_lt_two_pow b
  rw [ha] at halt
  rw [hb] at hblt
  rw [ocadd, bytesToNat_natToBytes, pow_256_eq_two_pow]
  split
  case isTrue hcarry =>
    have hcarried : (bytesToNat a + bytesToNat b) / 2 ^ (8 * n) = 1 :=
      Nat.div_eq_of_lt_le (by omega) (by omega)
    have hrest : (bytesToNat a + bytesToNat b) % 2 ^ (8 * n) = bytesToNat a + bytesToNat b - 2 ^ (8 * n) := by
      rw [Nat.mod_eq_sub_mod hcarry, Nat.mod_eq_of_lt (by omega)]
    rw [hcarried, hrest, Nat.mod_eq_of_lt (by omega), onesRep_of_carry hcarry (by omega)]
  case isFalse hfits =>
    rw [Nat.mod_eq_of_lt (by omega), onesRep_of_lt (by omega)]

/-- Zeros are neutral on the left (R92). -/
theorem ocadd_zeros (b : Bytes) : ocadd b.length (zeros b.length) b = b := by
  have hfits : ¬ 2 ^ (8 * b.length) ≤ bytesToNat b := (bytesToNat_lt_two_pow b).not_ge
  rw [ocadd, bytesToNat_zeros, Nat.zero_add, if_neg hfits, natToBytes_bytesToNat]

theorem bytesToNat_foldl_ocadd {chunks : List Bytes} (hchunks : ∀ c ∈ chunks, c.length = n) (ha : a.length = n) :
    bytesToNat (chunks.foldl (ocadd n) a) = onesRep n (bytesToNat a + (chunks.map bytesToNat).sum) := by
  induction chunks generalizing a with
  | nil =>
    subst ha
    exact (onesRep_of_lt (bytesToNat_lt_two_pow a)).symm
  | cons c chunks ih =>
    rw [List.forall_mem_cons] at hchunks
    obtain ⟨hc, hchunks⟩ := hchunks
    rw [List.foldl_cons, ih hchunks (length_ocadd n a c), bytesToNat_ocadd ha hc, onesRep_onesRep_add, List.map_cons,
      List.sum_cons, Nat.add_assoc]

end Sum

/-- Settles O46: the sum has the size asked for, and as a number it is the representative. -/
theorem onesComplementSum : Obligations.OnesComplementSum :=
  fun n a b _ ha hb => ⟨length_ocadd n a b, bytesToNat_ocadd ha hb⟩

/-! ### The copies and their chunks (R91) -/

theorem length_flatMap_range {f : Nat → Bytes} {m : Nat} (hf : ∀ i, (f i).length = m) (k : Nat) :
    ((List.range k).flatMap f).length = m * k := by
  simp [List.length_flatMap, hf, Nat.mul_comm]

/-- Strings of one length `m` set one after the other: byte `j` of number `i` is byte `m * i + j` of the whole. -/
theorem getD_flatMap_range {f : Nat → Bytes} {m : Nat} (hf : ∀ i, (f i).length = m) {k i j : Nat} (hi : i < k)
    (hj : j < m) : ((List.range k).flatMap f).getD (m * i + j) 0#8 = (f i).getD j 0#8 := by
  induction k with
  | zero => omega
  | succ k ih =>
    rw [List.range_succ, List.flatMap_append, List.flatMap_singleton]
    have hlen : ((List.range k).flatMap f).length = m * k := length_flatMap_range hf k
    obtain hbefore | rfl := Nat.lt_succ_iff_lt_or_eq.1 hi
    · have hin : m * i + m ≤ m * k := Nat.mul_le_mul_left m hbefore
      rw [List.getD_append _ _ _ _ (by omega), ih hbefore]
    · rw [List.getD_append_right _ _ _ _ (by omega), hlen, Nat.add_sub_cancel_left]

theorem length_nfoldCopies (b : Bytes) (n : Nat) : (nfoldCopies b n).length = Nat.lcm b.length n := by
  rw [nfoldCopies, length_flatMap_range fun _ => length_nfoldRot b _, Nat.mul_div_cancel' (Nat.dvd_lcm_left _ _)]

/-- Bit `q` of copy number `i`. -/
theorem bitAt_nfoldCopies {b : Bytes} {n i q : Nat} (hi : i < Nat.lcm b.length n / b.length) (hq : q < 8 * b.length) :
    bitAt (nfoldCopies b n) (8 * b.length * i + q) = bitAt (nfoldRot b (13 * i)) q := by
  rw [bitAt, bitAt, Nat.mul_assoc, Nat.mul_add_div (by decide), Nat.mul_add_mod, nfoldCopies,
    getD_flatMap_range (fun i => length_nfoldRot b (13 * i)) hi (by omega)]

/-- A string whose length is a multiple of `n` is its own only copy. -/
theorem nfoldCopies_of_dvd {b : Bytes} {n : Nat} (hb : b ≠ []) (h : n ∣ b.length) : nfoldCopies b n = b := by
  rw [nfoldCopies, Nat.lcm_eq_left h, Nat.div_self (List.length_pos_of_ne_nil hb), List.range_one, List.flatMap_singleton,
    nfoldRot_zero]

theorem length_of_mem_pieces {n : Nat} {b c : Bytes} (h : c ∈ pieces n b) : c.length = n := by
  simp only [pieces, List.mem_map, List.mem_range] at h
  obtain ⟨i, hi, rfl⟩ := h
  have hend : n * (i + 1) ≤ b.length := (Nat.mul_le_mul_left n hi).trans (Nat.mul_div_le _ _)
  rw [Nat.mul_succ] at hend
  rw [List.length_take, List.length_drop]
  omega

theorem pieces_self {b : Bytes} (hb : b ≠ []) : pieces b.length b = [b] := by
  rw [pieces, Nat.div_self (List.length_pos_of_ne_nil hb), List.range_one, List.map_singleton, Nat.mul_zero,
    List.drop_zero, List.take_length]

/-! ### The fold (R91, R93) -/

theorem bytesToNat_nfold (b : Bytes) (n : Nat) :
    bytesToNat (nfold b n) = onesRep n (((pieces n (nfoldCopies b n)).map bytesToNat).sum) := by
  rw [nfold, bytesToNat_foldl_ocadd (fun _ => length_of_mem_pieces) (length_zeros n), bytesToNat_zeros, Nat.zero_add]

theorem nfold_of_dvd {b : Bytes} {n : Nat} (hb : b ≠ []) (h : n ∣ b.length) :
    nfold b n = (pieces n b).foldl (ocadd n) (zeros n) := by
  rw [nfold, nfoldCopies_of_dvd hb h]

theorem nfold_length_self {b : Bytes} (hb : b ≠ []) : nfold b b.length = b := by
  rw [nfold_of_dvd hb dvd_rfl, pieces_self hb, List.foldl_cons, List.foldl_nil, ocadd_zeros]

/-- Settles O47: `big` is the concatenation of the copies, and its chunks are the pieces that the fold sums. -/
theorem nfoldSumsRotatedCopies : Obligations.NfoldSumsRotatedCopies := by
  intro b n hb _
  have hchunks : pieces n (nfoldCopies b n) =
      (List.range (Nat.lcm b.length n / n)).map fun j => ((nfoldCopies b n).drop (n * j)).take n := by
    rw [pieces, length_nfoldCopies]
  refine ⟨length_nfold b n, ?same, fun h => nfold_of_dvd hb (Nat.dvd_of_mod_eq_zero h), nfoldCopies b n,
    length_nfoldCopies b n, ?bits, ?sum, ?number⟩
  case same =>
    rintro rfl
    exact nfold_length_self hb
  case bits =>
    intro i p hi hp
    rw [bitAt_nfoldCopies hi (Nat.mod_lt _ (by omega)), bitAt_nfoldRot _ hp]
  case sum => rw [nfold, hchunks]
  case number =>
    rw [bytesToNat_nfold, hchunks]
    rfl

/-! ### The command (R93) -/

/-- A string within the reach of the length register, stored to an operand register (R8). -/
theorem ofBytes_holds {v : Bytes} (h : v.length < 2 ^ 32) :
    (Operand.ofBytes v).len.toNat = v.length ∧ (Operand.ofBytes v).valid = v ∧
      ∀ i, v.length ≤ i → Memory.read (Operand.ofBytes v).bytes i = 0#8 := by
  refine ⟨Nat.mod_eq_of_lt h, valid_ofBytes h, fun i hi => ?_⟩
  rw [ofBytes_bytes, read_place, if_pos (Nat.zero_le i), Nat.sub_zero, List.getD_eq_default _ _ hi]

theorem badNfold_eq_false {s : State} (hmsg : s.msg.len.toNat ≤ s.cfg.msgCap) (hlen : s.msg.len ≠ 0#32)
    (hnbits : s.nbits ≠ 0#32) (hbytes : s.nbits.toNat % 8 = 0) (hout : s.nbits.toNat / 8 ≤ s.cfg.outCap) :
    s.badNfold = false := by
  simp only [State.badNfold, State.msgOver, Bool.or_eq_false_iff, decide_eq_false_iff_not]
  exact ⟨⟨⟨⟨by omega, hlen⟩, hnbits⟩, by omega⟩, by omega⟩

/-- Settles O8: no parameter test fails, and the fold is published, whose length is that of a 32-bit register's value. -/
theorem nfoldWritesTheFold : Obligations.NfoldWritesTheFold := by
  intro keep s hmsg hlen hnbits hbytes hout
  have hwide : (nfold s.msg.valid (s.nbits.toNat / 8)).length < 2 ^ 32 := by
    rw [length_nfold]
    omega
  obtain ⟨hsize, hvalid, hzeros⟩ := ofBytes_holds hwide
  rw [length_nfold] at hsize hzeros
  refine ⟨_, hsize, hvalid, hzeros, ?_⟩
  rw [exec_nfold, execNfold, badNfold_eq_false hmsg hlen hnbits hbytes hout, if_neg (by decide), publish,
    statusDone_false]

end Sys2Proof.Machine
end

section
/-! PROOFS. The HMAC unit (42_hmac.md). First the key rule of R101, of which the long key is the interesting half: its hash is
shorter than the block, so that hashing it makes the key to use. Then the success of a key-using command (R60 steps 5 to 7),
said once for all of that shape; last the two commands (R102). -/

namespace Sys2Proof.Machine

/-! ### The key and the MAC (R101) -/

theorem hashBlockSize_eq (alg : HashAlg) : hashBlockSize alg = 64 := by
  cases alg
  case sha1 => rfl
  case md5 => rfl

/-- A key of at most the block is used as it is, padded with zeros. -/
theorem hmacKey_of_short {key : Bytes} (alg : HashAlg) (h : key.length ≤ 64) :
    hmacKey alg key = key ++ zeros (64 - key.length) := by
  rw [hmacKey, hashBlockSize_eq, if_neg h.not_gt]

/-- A longer key is hashed first; the hash is no longer than the block and is not hashed again. -/
theorem hmacKey_of_long {key : Bytes} (alg : HashAlg) (h : 64 < key.length) :
    hmacKey alg key = hmacKey alg (hash alg key) := by
  have hshort : (hash alg key).length ≤ 64 :=
    (length_hash alg key).trans_le ((hashOutputSize_le alg).trans (by decide))
  rw [hmacKey_of_short alg hshort, hmacKey, hashBlockSize_eq, if_pos h]

/-- Settles O49: the MAC depends on the key through `hmacKey` only, whose two cases are the two lengths of key. -/
theorem hmacKeyRule : Obligations.HmacKeyRule := by
  refine fun alg key msg => ⟨fun hshort => ?short, fun hlong => ?long, length_hmac alg key msg⟩
  case short => rw [hmac, hmacKey_of_short alg hshort]
  case long => rw [hmac, hmac, hmacKey_of_long alg hlong]

/-! ### The success of a key-using command (R60, R65) -/

/-- If the parameter test passes and the result's length fits the length register, `O` holds the result with zeros after it,
`K` is erased unless `KEEP` = 1, and nothing else changes but `STATUS`. -/
theorem checkedKeyed_of_ok {bad : State → Bool} (result : State → Bytes) {s : State} {n : Nat} (keep : Bool)
    (hok : bad s = false) (hlen : (result s).length = n) (hn : n < 2 ^ 32) :
    ∃ x : Operand, x.len.toNat = n ∧ x.valid = result s ∧ (∀ i, n ≤ i → Memory.read x.bytes i = 0#8) ∧
      checkedKeyed bad result keep s =
        .next { s with out := x, key := if keep then s.key else Operand.empty, status := 0x00000002#32 } := by
  subst hlen
  obtain ⟨hsize, hvalid, hzeros⟩ := ofBytes_holds hn
  refine ⟨_, hsize, hvalid, hzeros, ?_⟩
  rw [checkedKeyed, hok, if_neg Bool.false_ne_true, publishKeyed, keyAfter, statusDone_false]

/-! ### The commands (R102) -/

theorem badHmac_eq_false {s : State} (hkey : s.key.len.toNat ≤ s.cfg.keyCap) (hmsg : s.msg.len.toNat ≤ s.cfg.msgCap) :
    s.badHmac = false := by
  simp only [State.badHmac, State.keyOver, State.msgOver, Bool.or_eq_false_iff, decide_eq_false_iff_not]
  exact ⟨hkey.not_gt, hmsg.not_gt⟩

theorem hmacCommand_eq_checkedKeyed (alg : HashAlg) (keep : Bool) (s : State) :
    hmacCommand alg keep s =
      checkedKeyed State.badHmac (fun s => hmac alg s.key.valid s.msg.valid) keep s := rfl

/-- With `KEYLEN` and `MSGLEN` within their capacities no parameter test fails, and the MAC has the size of the hash. -/
theorem hmacCommand_of_fits {s : State} (alg : HashAlg) (keep : Bool) (hkey : s.key.len.toNat ≤ s.cfg.keyCap)
    (hmsg : s.msg.len.toNat ≤ s.cfg.msgCap) :
    ∃ x : Operand, x.len.toNat = hashOutputSize alg ∧ x.valid = hmac alg s.key.valid s.msg.valid ∧
      (∀ i, hashOutputSize alg ≤ i → Memory.read x.bytes i = 0#8) ∧
      hmacCommand alg keep s =
        .next { s with out := x, key := if keep then s.key else Operand.empty, status := 0x00000002#32 } := by
  rw [hmacCommand_eq_checkedKeyed]
  exact checkedKeyed_of_ok (fun s => hmac alg s.key.valid s.msg.valid) keep (badHmac_eq_false hkey hmsg)
    (length_hmac alg _ _) ((hashOutputSize_le alg).trans_lt (by decide))

/-- Settles O9: the two instructions are `hmacCommand` of the two hashes. -/
theorem hmacWritesTheMac : Obligations.HmacWritesTheMac := by
  unfold Obligations.HmacWritesTheMac
  simp only [List.forall_mem_cons, List.not_mem_nil, false_implies, implies_true, and_true, exec_hmacSha1, exec_hmacMd5]
  exact ⟨fun keep _ => hmacCommand_of_fits .sha1 keep, fun keep _ => hmacCommand_of_fits .md5 keep⟩

end Sys2Proof.Machine
end

section
/-! PROOFS. The CMAC unit (43_cmac.md). First the doubling of R111 on 128-bit values; then the blocks of R112: a message of
whole blocks and a final one is cut where it was put together, so that the chain runs over those blocks and the final one
alone decides between `K1` and `K2`; last the commands (R113), which have the shape of every key-using command. -/

namespace Sys2Proof.Machine

/-! ### Doubling (R111) -/

@[simp] theorem length_cmacDouble (b : Bytes) : (cmacDouble b).length = 16 := length_natToBytes 16 _

theorem toNat_bytesToBits {n : Nat} {b : Bytes} (h : 8 * b.length = n) : (bytesToBits n b).toNat = bytesToNat b :=
  Nat.mod_eq_of_lt ((bytesToNat_lt_two_pow b).trans_eq (congrArg _ h))

theorem bytesToBits_natToBytes (n v : Nat) : bytesToBits (8 * n) (natToBytes n v) = BitVec.ofNat (8 * n) v := by
  apply BitVec.eq_of_toNat_eq
  rw [bytesToBits, bytesToNat_natToBytes, pow_256_eq_two_pow, BitVec.toNat_ofNat, BitVec.toNat_ofNat, Nat.mod_mod]

theorem ofNat_toNat_mul_two {w : Nat} (x : BitVec w) : BitVec.ofNat w (x.toNat * 2) = x <<< 1 := by
  apply BitVec.eq_of_toNat_eq
  rw [BitVec.toNat_ofNat, BitVec.toNat_shiftLeft, Nat.shiftLeft_eq, pow_one]

/-- A 1 is shifted out exactly when twice the number does not fit. -/
theorem msb_iff_le_mul_two (x : BitVec 128) : x.msb = true ↔ 2 ^ 128 ≤ x.toNat * 2 := by
  rw [BitVec.msb_eq_decide, decide_eq_true_iff]
  omega

/-- Settles O50: the test of the model is the top bit, and the exclusive-or of numbers is that of 128-bit values. -/
theorem cmacDoublingShifts : Obligations.CmacDoublingShifts := by
  refine fun b hb => ⟨length_cmacDouble b, ?_⟩
  have hvalue : bytesToNat b = (bytesToBits 128 b).toNat := (toNat_bytesToBits (by rw [hb])).symm
  generalize bytesToBits 128 b = x at hvalue
  have hbits (v : Nat) : bytesToBits 128 (natToBytes 16 v) = BitVec.ofNat 128 v := bytesToBits_natToBytes 16 v
  simp only [cmacDouble, hbits, hvalue, msb_iff_le_mul_two]
  split
  case isTrue =>
    rw [BitVec.ofNat_xor, ← ofNat_toNat_mul_two]
    congr 1
    exact BitVec.eq_of_toNat_eq (Nat.mod_mod _ _)
  case isFalse => rw [ofNat_toNat_mul_two, BitVec.xor_zero]

/-! ### Strings put together from blocks -/

theorem length_flatten_blocks {n : Nat} {bs : List Bytes} (h : ∀ b ∈ bs, b.length = n) :
    bs.flatten.length = n * bs.length := by
  rw [List.length_flatten, List.map_congr_left h, List.map_const', List.sum_replicate, smul_eq_mul, Nat.mul_comm]

theorem pieces_append {n : Nat} (hn : 0 < n) {b : Bytes} (hb : b.length = n) (rest : Bytes) :
    pieces n (b ++ rest) = b :: pieces n rest := by
  subst hb
  rw [pieces, List.length_append, Nat.add_div_left _ hn, List.range_succ_eq_map, List.map_cons, List.map_map, Nat.mul_zero,
    List.drop_zero, List.take_left, pieces]
  refine congrArg _ (List.map_congr_left fun i _ => ?_)
  rw [Function.comp_apply, Nat.mul_succ, Nat.add_comm, List.drop_length_add_append]

theorem pieces_flatten {n : Nat} (hn : 0 < n) {bs : List Bytes} (h : ∀ b ∈ bs, b.length = n) :
    pieces n bs.flatten = bs := by
  induction bs with
  | nil => simp [pieces]
  | cons b bs ih =>
    obtain ⟨hb, hbs⟩ := List.forall_mem_cons.1 h
    rw [List.flatten_cons, pieces_append hn hb, ih hbs]

theorem xorBytes_zeros_left {n : Nat} {b : Bytes} (h : b.length = n) : xorBytes (zeros n) b = b := by
  subst h
  induction b with
  | nil => rfl
  | cons x b ih =>
    rw [List.length_cons, zeros, List.replicate_succ, xorBytes, List.zipWith_cons_cons, BitVec.zero_xor]
    exact congrArg _ ih

/-! ### The final block (R112) -/

section Blocks
variable {bs : List Bytes} {msg : Bytes}

/-- Whole blocks followed by a final block, which is empty only if it is the whole message, make one block more. -/
theorem cmacBlocks_append (hbs : ∀ b ∈ bs, b.length = 16) (hmsg : msg.length ≤ 16) (hne : 0 < msg.length ∨ bs = []) :
    cmacBlocks (bs.flatten ++ msg) = bs.length + 1 := by
  rw [cmacBlocks, ceilDiv, List.length_append, length_flatten_blocks hbs]
  obtain hpos | rfl := hne
  · omega
  · rw [List.length_nil]
    omega

theorem cmacBlocks_of_le (hmsg : msg.length ≤ 16) : cmacBlocks msg = 1 :=
  cmacBlocks_append (bs := []) (by simp) hmsg (.inr rfl)

/-- A complete final block goes under `K1`. -/
theorem cmacLast_of_complete (k1 k2 : Bytes) (hmsg : msg.length = 16) : cmacLast k1 k2 msg = xorBytes msg k1 := by
  rw [cmacLast, cmacBlocks_of_le hmsg.le, if_pos (by omega), Nat.sub_self, Nat.mul_zero, List.drop_zero]

/-- A shorter one, the empty one too, is padded and goes under `K2`. -/
theorem cmacLast_of_short (k1 k2 : Bytes) (hmsg : msg.length < 16) :
    cmacLast k1 k2 msg = xorBytes (msg ++ [0x80#8] ++ zeros (15 - msg.length)) k2 := by
  rw [cmacLast, cmacBlocks_of_le hmsg.le, if_neg (by omega), Nat.sub_self, Nat.mul_zero, List.drop_zero]

/-- The whole blocks before it play no part in `last`. -/
theorem cmacLast_append (k1 k2 : Bytes) (hbs : ∀ b ∈ bs, b.length = 16) (hmsg : msg.length ≤ 16)
    (hne : 0 < msg.length ∨ bs = []) : cmacLast k1 k2 (bs.flatten ++ msg) = cmacLast k1 k2 msg := by
  have hcomplete : (0 < (bs.flatten ++ msg).length ∧ (bs.flatten ++ msg).length % 16 = 0) ↔
      (0 < msg.length ∧ msg.length % 16 = 0) := by
    rw [List.length_append, length_flatten_blocks hbs]
    obtain hpos | rfl := hne
    · omega
    · simp
  simp only [cmacLast, hcomplete, cmacBlocks_append hbs hmsg hne, cmacBlocks_of_le hmsg, Nat.add_sub_cancel, Nat.sub_self,
    Nat.mul_zero, List.drop_zero, List.drop_left' (length_flatten_blocks hbs)]

/-- `last` of R112 under the two subkeys that `enc` makes. -/
def cmacFinal (enc : Bytes → Bytes) (msg : Bytes) : Bytes :=
  cmacLast (cmacDouble (enc (zeros 16))) (cmacDouble (cmacDouble (enc (zeros 16)))) msg

theorem length_cmacFinal (enc : Bytes → Bytes) (hmsg : msg.length ≤ 16) : (cmacFinal enc msg).length = 16 := by
  obtain hshort | hfull := hmsg.lt_or_eq
  · simp only [cmacFinal, cmacLast_of_short _ _ hshort, length_xorBytes, length_cmacDouble, List.length_append,
      List.length_singleton, length_zeros]
    omega
  · rw [cmacFinal, cmacLast_of_complete _ _ hfull, length_xorBytes, length_cmacDouble, hfull, Nat.min_self]

/-! ### The chain (R112) -/

/-- The whole blocks are chained from zeros, and the final one is added to what the chain leaves. -/
theorem cmacWith_append (enc : Bytes → Bytes) (hbs : ∀ b ∈ bs, b.length = 16) (hmsg : msg.length ≤ 16)
    (hne : 0 < msg.length ∨ bs = []) :
    cmacWith enc (bs.flatten ++ msg) =
      enc (xorBytes (bs.foldl (fun x b => enc (xorBytes x b)) (zeros 16)) (cmacFinal enc msg)) := by
  rw [cmacWith, cmacLast_append _ _ hbs hmsg hne, cmacBlocks_append hbs hmsg hne, Nat.add_sub_cancel,
    List.take_left' (length_flatten_blocks hbs), pieces_flatten (by decide) hbs, cmacFinal]

/-- One block: nothing is chained before it. -/
theorem cmacWith_of_le (enc : Bytes → Bytes) (hmsg : msg.length ≤ 16) :
    cmacWith enc msg = enc (cmacFinal enc msg) := by
  have hchain := cmacWith_append enc (bs := []) (by simp) hmsg (.inr rfl)
  rwa [List.flatten_nil, List.nil_append, List.foldl_nil, xorBytes_zeros_left (length_cmacFinal enc hmsg)] at hchain

/-- Two blocks: the first one is encrypted as it is. -/
theorem cmacWith_block_append (enc : Bytes → Bytes) {b : Bytes} (hb : b.length = 16) (hmsg : msg.length ≤ 16)
    (hpos : 0 < msg.length) : cmacWith enc (b ++ msg) = enc (xorBytes (enc b) (cmacFinal enc msg)) := by
  have hchain := cmacWith_append enc (bs := [b]) (by simpa using hb) hmsg (.inl hpos)
  rwa [List.flatten_singleton, List.foldl_cons, List.foldl_nil, xorBytes_zeros_left hb] at hchain

end Blocks

/-- Settles O51: the three shapes of message, each with the two forms of its final block. -/
theorem cmacChainsTheBlocks : Obligations.CmacChainsTheBlocks := by
  refine ⟨fun _ _ _ _ => rfl, fun enc msg _ => ⟨fun hfull => ?one, fun hshort => ?onePadded, fun b hb hfull => ?two,
    fun b hb hpos hshort => ?twoPadded, fun bs hbs => ⟨fun hfull => ?many, fun hshort hne => ?manyPadded⟩⟩⟩
  case one => rw [cmacWith_of_le enc hfull.le, cmacFinal, cmacLast_of_complete _ _ hfull]
  case onePadded => rw [cmacWith_of_le enc hshort.le, cmacFinal, cmacLast_of_short _ _ hshort]
  case two => rw [cmacWith_block_append enc hb hfull.le (by omega), cmacFinal, cmacLast_of_complete _ _ hfull]
  case twoPadded => rw [cmacWith_block_append enc hb hshort.le hpos, cmacFinal, cmacLast_of_short _ _ hshort]
  case many => rw [cmacWith_append enc hbs hfull.le (.inl (by omega)), cmacFinal, cmacLast_of_complete _ _ hfull]
  case manyPadded => rw [cmacWith_append enc hbs hshort.le hne, cmacFinal, cmacLast_of_short _ _ hshort]

/-! ### The commands (R113) -/

theorem badCmac_eq_false {s : State} {n : Nat} (hkey : s.key.len.toNat ≤ s.cfg.keyCap)
    (hmsg : s.msg.len.toNat ≤ s.cfg.msgCap) (hsize : s.key.len.toNat = n) : s.badCmac n = false := by
  simp only [State.badCmac, State.keyOver, State.msgOver, Bool.or_eq_false_iff, decide_eq_false_iff_not]
  exact ⟨⟨hkey.not_gt, hmsg.not_gt⟩, not_not_intro hsize⟩

theorem cmacCommand_eq_checkedKeyed (c : Cipher) (keep : Bool) (s : State) :
    cmacCommand c keep s =
      checkedKeyed (fun s => s.badCmac (cipherKeySize c)) (fun s => cmac s.cfg.cores c s.key.valid s.msg.valid) keep s := rfl

/-- With a key of the cipher's size and the lengths within their capacities no parameter test fails, and the MAC is one block
long. -/
theorem cmacCommand_of_fits {s : State} {c : Cipher} (hc : cipherBlockSize c = 16) (keep : Bool)
    (hkey : s.key.len.toNat ≤ s.cfg.keyCap) (hmsg : s.msg.len.toNat ≤ s.cfg.msgCap)
    (hsize : s.key.len.toNat = cipherKeySize c) :
    ∃ x : Operand, x.len = 16#32 ∧ x.valid = cmac s.cfg.cores c s.key.valid s.msg.valid ∧
      (∀ i, 16 ≤ i → Memory.read x.bytes i = 0#8) ∧
      cmacCommand c keep s =
        .next { s with out := x, key := if keep then s.key else Operand.empty, status := 0x00000002#32 } := by
  obtain ⟨x, hlen, hvalid, hzeros, hnext⟩ :=
    checkedKeyed_of_ok (bad := fun s => s.badCmac (cipherKeySize c))
      (fun s => cmac s.cfg.cores c s.key.valid s.msg.valid) keep (badCmac_eq_false hkey hmsg hsize)
      ((length_cmac _ c _ _).trans hc) (by decide)
  exact ⟨x, BitVec.eq_of_toNat_eq hlen, hvalid, hzeros, (cmacCommand_eq_checkedKeyed c keep s).trans hnext⟩

/-- Settles O10: the four instructions are `cmacCommand` of the four ciphers with a block of 16 bytes. -/
theorem cmacWritesTheMac : Obligations.CmacWritesTheMac := by
  unfold Obligations.CmacWritesTheMac
  simp only [List.forall_mem_cons, List.not_mem_nil, false_implies, implies_true, and_true, exec_cmacAes128, exec_cmacAes256,
    exec_cmacCam128, exec_cmacCam256]
  have run (c : Cipher) (hc : cipherBlockSize c = 16) (keep : Bool) (s : State) := cmacCommand_of_fits (s := s) hc keep
  exact ⟨run .aes128 rfl, run .aes256 rfl, run .cam128 rfl, run .cam256 rfl⟩

end Sys2Proof.Machine
end

section
/-! PROOFS. The key-derivation unit (44_kdf.md). First the two profiles of `DR`, each cut to the registry's size from a chain of
whole blocks; then a third of a triple-DES key, whose expansion is described bit by bit and whose weak-key fix is settled on the
table and by a parity argument; last the commands, which have the shape of every key-using command. -/

namespace Sys2Proof.Machine

/-! ### The sizes (R120 to R123, R172) -/

theorem le_mul_ceilDiv (a : Nat) {b : Nat} (hb : 0 < b) : a ≤ b * ceilDiv a b := by
  have hmod := Nat.mod_lt (a + (b - 1)) hb
  have hdiv := Nat.div_add_mod (a + (b - 1)) b
  rw [ceilDiv]
  omega

theorem length_drChain {enc : Bytes → Bytes} {m : Nat} (henc : ∀ b, (enc b).length = m) (n : Nat) (ki : Bytes) :
    (drChain enc n ki).length = m * n := by
  induction n generalizing ki with
  | zero => rfl
  | succ n ih => rw [drChain, List.length_append, henc, ih, Nat.mul_succ, Nat.add_comm]

theorem length_drFeedback {mac : Bytes → Bytes} {m : Nat} (hlen : ∀ b, (mac b).length = m) (c : Cipher) (const : Bytes)
    (n i : Nat) (prev : Bytes) : (drFeedback mac c const n i prev).length = m * n := by
  induction n generalizing i prev with
  | zero => rfl
  | succ n ih => rw [drFeedback, List.length_append, hlen, ih, Nat.mul_succ, Nat.add_comm]

theorem cipherBlockSize_pos (c : Cipher) : 0 < cipherBlockSize c := by cases c <;> decide

/-- The formatted profile is for the Camellia ciphers, whose MAC has 16 bytes. -/
theorem cipherBlockSize_of_formatted {c : Cipher} (h : cipherFormatted c = true) : cipherBlockSize c = 16 := by
  cases c
  case cam128 => rfl
  case cam256 => rfl
  all_goals cases h

/-- In either profile the blocks reach the size asked for. -/
@[simp] theorem length_deriveRandom (cores : Cores) (c : Cipher) (key const : Bytes) :
    (deriveRandom cores c key const).length = cipherKeyInputSize c := by
  unfold deriveRandom
  split
  case isTrue hformatted =>
    have hlen (b : Bytes) : (cmac cores c key b).length = 16 :=
      (length_cmac cores c key b).trans (cipherBlockSize_of_formatted hformatted)
    rw [drFormatted, List.length_take, length_drFeedback hlen, Nat.min_eq_left (le_mul_ceilDiv _ (by decide))]
  case isFalse =>
    rw [drSimplified, List.length_take, length_drChain (length_encBlock cores c key),
      Nat.min_eq_left (le_mul_ceilDiv _ (cipherBlockSize_pos c))]

/-- Random-to-key makes a key of `keySize` bytes from `keyInputSize` bytes. -/
theorem length_randomToKey {c : Cipher} {r : Bytes} (h : r.length = cipherKeyInputSize c) :
    (randomToKey c r).length = cipherKeySize c := by
  cases c
  case des3 =>
    rw [cipherKeyInputSize] at h
    simp only [randomToKey, List.length_append, length_third, List.length_take, List.length_drop, h, cipherKeySize]
    decide
  all_goals exact h

/-! ### The simplified profile (R121) -/

theorem drStart_eq (c : Cipher) (const : Bytes) :
    drStart c const = if const.length = cipherBlockSize c then const else nfold const (cipherBlockSize c) :=
  ite_not _ _ _

section Chain
variable {enc : Bytes → Bytes} (ki : Bytes)

/-- One whole block. -/
theorem take_drChain_one (henc : ∀ b, (enc b).length = 16) : (drChain enc 1 ki).take 16 = enc ki := by
  rw [List.take_of_length_le (length_drChain henc 1 ki).le, drChain, drChain, List.append_nil]

/-- Two whole blocks. -/
theorem take_drChain_two (henc : ∀ b, (enc b).length = 16) :
    (drChain enc 2 ki).take 32 = enc ki ++ enc (enc ki) := by
  rw [List.take_of_length_le (length_drChain henc 2 ki).le, drChain, drChain, drChain, List.append_nil]

/-- Of three blocks of 8 bytes, 21 bytes are the first two and 5 bytes of the third. -/
theorem take_drChain_three (henc : ∀ b, (enc b).length = 8) :
    (drChain enc 3 ki).take 21 = enc ki ++ enc (enc ki) ++ (enc (enc (enc ki))).take 5 := by
  have htwo : (enc ki ++ enc (enc ki)).length = 16 := by rw [List.length_append, henc, henc]
  rw [drChain, drChain, drChain, drChain, List.append_nil, ← List.append_assoc, List.take_append, htwo,
    List.take_of_length_le (by omega)]

end Chain

/-- Settles O52: each cipher takes its bytes from the chain over its core. -/
theorem simplifiedProfileChain : Obligations.SimplifiedProfileChain := by
  intro cores key const
  refine ⟨?aes128, ?aes256, ?des3⟩
  case aes128 =>
    have hchain := take_drChain_one (drStart .aes128 const) (length_encBlock cores .aes128 key)
    exact hchain.trans (by rw [drStart_eq]; rfl)
  case aes256 =>
    have hchain := take_drChain_two (drStart .aes256 const) (length_encBlock cores .aes256 key)
    exact hchain.trans (by rw [drStart_eq]; rfl)
  case des3 =>
    have hchain := take_drChain_three (drStart .des3 const) (length_encBlock cores .des3 key)
    exact hchain.trans (by rw [drStart_eq]; rfl)

/-! ### The formatted profile (R122) -/

section Feedback
variable {mac : Bytes → Bytes} (hlen : ∀ b, (mac b).length = 16) (c : Cipher) (const prev : Bytes) (i : Nat)
include hlen

theorem take_drFeedback_one : (drFeedback mac c const 1 i prev).take 16 = mac (drInput c const prev i) := by
  rw [List.take_of_length_le (length_drFeedback hlen c const 1 i prev).le, drFeedback, drFeedback, List.append_nil]

/-- The second MAC is over the first one and the next counter. -/
theorem take_drFeedback_two :
    (drFeedback mac c const 2 i prev).take 32 =
      mac (drInput c const prev i) ++ mac (drInput c const (mac (drInput c const prev i)) (i + 1)) := by
  rw [List.take_of_length_le (length_drFeedback hlen c const 2 i prev).le, drFeedback, drFeedback, drFeedback,
    List.append_nil]

end Feedback

/-- Settles O53: the counter starts at 1 over a block of zeros, and the length field of `drInput` is 128 or 256. -/
theorem formattedProfileFeedback : Obligations.FormattedProfileFeedback :=
  fun cores key const =>
    ⟨take_drFeedback_one (length_cmac cores .cam128 key) .cam128 const (zeros 16) 1,
      take_drFeedback_two (length_cmac cores .cam256 key) .cam256 const (zeros 16) 1⟩

/-! ### The bits of the expansion (R127) -/

/-- A byte is its upper seven bits and its low bit. -/
theorem byte_eq_of_upper_of_low {a b : Byte} (hupper : a >>> 1 = b >>> 1) (hlow : a.getLsbD 0 = b.getLsbD 0) : a = b := by
  refine BitVec.eq_of_getLsbD_eq fun i _ => ?_
  cases i with
  | zero => exact hlow
  | succ i => simpa [BitVec.getLsbD_ushiftRight, Nat.add_comm] using congrArg (·.getLsbD i) hupper

theorem getLsbD_clearLow (b : Byte) (i : Nat) : (b &&& 0xFE#8).getLsbD i = (decide (i ≠ 0) && b.getLsbD i) := by
  have hmask : (0xFE#8).getLsbD i = (decide (i < 8) && decide (i ≠ 0)) := by
    rw [show 0xFE#8 = ~~~1#8 from rfl, BitVec.getLsbD_not, BitVec.getLsbD_one]
    simp
  rw [BitVec.getLsbD_and, hmask]
  by_cases hi : i < 8
  · simp [hi, Bool.and_comm]
  · simp [BitVec.getLsbD_of_ge b i (by omega)]

/-- Parity goes into bit 0 alone. -/
theorem getLsbD_oddParity_succ (b : Byte) (i : Nat) : (oddParity b).getLsbD (i + 1) = b.getLsbD (i + 1) := by
  have hparity : (if onesAboveParity b % 2 = 0 then 1#8 else 0#8).getLsbD (i + 1) = false := by
    split <;> simp
  rw [oddParity, BitVec.getLsbD_or, hparity, getLsbD_clearLow]
  simp

theorem getLsbD_oddParity_zero (b : Byte) : (oddParity b).getLsbD 0 = decide (onesAboveParity b % 2 = 0) := by
  rw [oddParity, BitVec.getLsbD_or, getLsbD_clearLow]
  split <;> simp [*]

theorem onesOf_eq (b : Byte) : onesOf b = (b.getLsbD 0).toNat + onesAboveParity b := by
  rw [onesOf, List.range_succ_eq_map, List.map_cons, List.map_map, List.sum_cons]
  rfl

theorem onesOf_oddParity (b : Byte) : onesOf (oddParity b) % 2 = 1 := by
  have habove : onesAboveParity (oddParity b) = onesAboveParity b := by
    simp only [onesAboveParity, getLsbD_oddParity_succ]
  rw [onesOf_eq, habove, getLsbD_oddParity_zero]
  obtain heven | hodd := Nat.mod_two_eq_zero_or_one (onesAboveParity b)
  · simp only [heven, decide_true, Bool.toNat_true]
    omega
  · simp [hodd]

/-- Neither the parity nor the clearing of bit 0 touches the upper seven bits. -/
theorem oddParity_clearLow_ushiftRight (b : Byte) : oddParity (b &&& 0xFE#8) >>> 1 = b >>> 1 := by
  refine BitVec.eq_of_getLsbD_eq fun i _ => ?_
  rw [BitVec.getLsbD_ushiftRight, BitVec.getLsbD_ushiftRight, Nat.add_comm, getLsbD_oddParity_succ, getLsbD_clearLow]
  simp

/-- The low bits of the first `n` bytes, each in its place: `gatherLowBits` is that of seven. -/
def gatherLowBitsOf (s : Bytes) (n : Nat) : Byte :=
  (List.range n).foldl (fun acc i => acc ||| ((s.getD i 0#8 &&& 1#8) <<< (i + 1))) 0#8

theorem gatherLowBits_eq (s : Bytes) : gatherLowBits s = gatherLowBitsOf s 7 := rfl

theorem gatherLowBitsOf_succ (s : Bytes) (n : Nat) :
    gatherLowBitsOf s (n + 1) = gatherLowBitsOf s n ||| ((s.getD n 0#8 &&& 1#8) <<< (n + 1)) := by
  rw [gatherLowBitsOf, List.range_succ, List.foldl_append]
  rfl

/-- The low bit of byte `n` stands at bit `n + 1` and nowhere else. -/
theorem getLsbD_lowBit_shiftLeft (b : Byte) (n : Nat) {i : Nat} (hi : i < 7) :
    ((b &&& 1#8) <<< (n + 1)).getLsbD (i + 1) = (decide (i = n) && b.getLsbD 0) := by
  have hwidth : i + 1 < 8 := by omega
  rw [BitVec.getLsbD_shiftLeft, BitVec.getLsbD_and, BitVec.getLsbD_one, Nat.add_sub_add_right]
  obtain hlt | rfl | hgt := Nat.lt_trichotomy i n
  · simp [hlt, hlt.ne]
  · simp [hwidth]
  · simp [hgt.ne', Nat.sub_ne_zero_of_lt hgt]

theorem getLsbD_gatherLowBitsOf (s : Bytes) (n : Nat) {i : Nat} (hi : i < 7) :
    (gatherLowBitsOf s n).getLsbD (i + 1) = (decide (i < n) && (s.getD i 0#8).getLsbD 0) := by
  induction n with
  | zero => simp [gatherLowBitsOf]
  | succ n ih =>
    rw [gatherLowBitsOf_succ, BitVec.getLsbD_or, ih, getLsbD_lowBit_shiftLeft _ n hi]
    obtain hlt | rfl | hgt := Nat.lt_trichotomy i n
    · simp [hlt, hlt.ne, Nat.lt_succ_of_lt hlt]
    · simp
    · simp [hgt.not_gt, hgt.ne', Nat.not_lt.2 (Nat.succ_le_of_lt hgt)]

/-! ### The expansion (R127) -/

@[simp] theorem length_expandThird (s : Bytes) : (expandThird s).length = s.length + 1 := by simp [expandThird]

theorem onesOf_of_mem_expandThird {s : Bytes} {b : Byte} (h : b ∈ expandThird s) : onesOf b % 2 = 1 := by
  obtain ⟨a, -, rfl⟩ := List.mem_map.1 h
  exact onesOf_oddParity a

section Places
variable {s : Bytes} {i : Nat}

theorem getD_expandThird_of_lt (hi : i < s.length) :
    (expandThird s).getD i 0#8 = oddParity (s.getD i 0#8 &&& 0xFE#8) := by
  simp [expandThird, List.getD_eq_getElem?_getD, List.getElem?_append_left, hi]

theorem getD_expandThird_length (s : Bytes) : (expandThird s).getD s.length 0#8 = oddParity (gatherLowBits s) := by
  simp [expandThird, List.getD_eq_getElem?_getD]

/-- Byte `i` of the expansion keeps the upper seven bits of byte `i` of the string. -/
theorem getD_expandThird_ushiftRight (hi : i < s.length) :
    (expandThird s).getD i 0#8 >>> 1 = s.getD i 0#8 >>> 1 := by
  rw [getD_expandThird_of_lt hi, oddParity_clearLow_ushiftRight]

/-- The low bit of byte `i` stands at bit `i + 1` of the last byte. -/
theorem getLsbD_expandThird_last (hs : s.length = 7) (hi : i < 7) :
    ((expandThird s).getD 7 0#8).getLsbD (i + 1) = (s.getD i 0#8).getLsbD 0 := by
  rw [← hs, getD_expandThird_length, getLsbD_oddParity_succ, gatherLowBits_eq, getLsbD_gatherLowBitsOf s 7 hi,
    decide_eq_true hi, Bool.true_and]

end Places

/-- The expansion loses none of the 56 bits. -/
theorem expandThird_injective {s t : Bytes} (hs : s.length = 7) (ht : t.length = 7)
    (h : expandThird s = expandThird t) : s = t := by
  refine List.ext_getElem (hs.trans ht.symm) fun i his hit => ?_
  rw [← List.getD_eq_getElem s 0#8 his, ← List.getD_eq_getElem t 0#8 hit]
  have hi : i < 7 := hs ▸ his
  refine byte_eq_of_upper_of_low ?upper ?low
  case upper => rw [← getD_expandThird_ushiftRight his, h, getD_expandThird_ushiftRight hit]
  case low => rw [← getLsbD_expandThird_last hs hi, h, getLsbD_expandThird_last ht hi]

/-! ### The weak-key fix (R127, R128) -/

theorem bytesToNat_weakKeys :
    weakKeys.map bytesToNat =
      [0x0101010101010101, 0xfefefefefefefefe, 0x1f1f1f1f0e0e0e0e, 0xe0e0e0e0f1f1f1f1] ++
      [0x01fe01fe01fe01fe, 0xfe01fe01fe01fe01, 0x1fe01fe00ef10ef1, 0xe01fe01ff10ef10e] ++
      [0x01e001e001f101f1, 0xe001e001f101f101, 0x1ffe1ffe0efe0efe, 0xfe1ffe1ffe0efe0e] ++
      [0x011f011f010e010e, 0x1f011f010e010e01, 0xe0fee0fef1fef1fe, 0xfee0fee0fef1fef1] := by
  simp only [weakKeys, List.map_append, List.map_cons, List.map_nil, bytesToNat_natToBytes, Nat.reducePow, Nat.reduceMod]

theorem fixWeak_of_not_mem {k : Bytes} (h : k ∉ weakKeys) : fixWeak k = k := if_neg h

theorem fixWeak_of_mem {k : Bytes} (hk : k.length = 8) (h : k ∈ weakKeys) :
    fixWeak k = k.take 7 ++ [k.getD 7 0#8 ^^^ 0xF0#8] := by
  rw [fixWeak, if_pos h, List.set_eq_take_append_cons_drop, if_pos (by omega), List.drop_of_length_le (by omega)]

/-- On the table: no weak key is fixed to another one. -/
theorem fixWeak_not_mem_weakKeys : ∀ k ∈ weakKeys, fixWeak k ∉ weakKeys := by decide

theorem toNat_xor_mod_two : ∀ x y : Bool, (x ^^ y).toNat % 2 = (x.toNat + y.toNat) % 2 := by decide

/-- Bits that two bytes have in common cancel in pairs. -/
theorem onesOf_xor (a b : Byte) : onesOf (a ^^^ b) % 2 = (onesOf a + onesOf b) % 2 := by
  unfold onesOf
  induction List.range 8 with
  | nil => rfl
  | cons i is ih =>
    have hbit := toNat_xor_mod_two (a.getLsbD i) (b.getLsbD i)
    rw [← BitVec.getLsbD_xor] at hbit
    simp only [List.map_cons, List.sum_cons]
    omega

/-- The fix flips four bits of one byte, so the parity stays odd. -/
theorem onesOf_of_mem_fixWeak {k : Bytes} (hk : k.length = 8) (hodd : ∀ b ∈ k, onesOf b % 2 = 1) {b : Byte}
    (h : b ∈ fixWeak k) : onesOf b % 2 = 1 := by
  by_cases hweak : k ∈ weakKeys
  · rw [fixWeak_of_mem hk hweak, List.mem_append, List.mem_singleton] at h
    obtain hfirst | rfl := h
    · exact hodd b (List.mem_of_mem_take hfirst)
    · have hlast : onesOf (k.getD 7 0#8) % 2 = 1 := by
        rw [List.getD_eq_getElem _ _ (by omega)]
        exact hodd _ (List.getElem_mem _)
      have hflip : onesOf 0xF0#8 = 4 := rfl
      rw [onesOf_xor, hflip]
      omega
  · rw [fixWeak_of_not_mem hweak] at h
    exact hodd b h

theorem third_not_mem_weakKeys (s : Bytes) : third s ∉ weakKeys := by
  rw [third]
  by_cases hweak : expandThird s ∈ weakKeys
  · exact fixWeak_not_mem_weakKeys _ hweak
  · rwa [fixWeak_of_not_mem hweak]

/-- Settles O55: the table, the bits of the expansion, and the fix where the expansion is in the table. -/
theorem thirdIsOddAndNotWeak : Obligations.ThirdIsOddAndNotWeak := by
  refine ⟨bytesToNat_weakKeys, fun s hs => ?_, fun s t => expandThird_injective⟩
  have hexpanded : (expandThird s).length = 8 := by rw [length_expandThird, hs]
  have hthird : (third s).length = 8 := by rw [length_third, hs]
  exact ⟨hexpanded, fun _ => onesOf_of_mem_expandThird,
    fun i hi => ⟨getD_expandThird_ushiftRight (hs ▸ hi), getLsbD_expandThird_last hs hi⟩,
    hthird, fun _ => onesOf_of_mem_fixWeak hexpanded fun _ => onesOf_of_mem_expandThird, third_not_mem_weakKeys s,
    fixWeak_of_not_mem, fixWeak_of_mem hexpanded⟩

/-! ### The commands (R124, R125, R126) -/

section Commands
variable {s : State} {n : Nat}

theorem badDerive_eq_false (hkey : s.key.len.toNat ≤ s.cfg.keyCap) (haux : s.aux.len.toNat ≤ s.cfg.auxCap)
    (hsize : s.key.len.toNat = n) (hconst : s.aux.len ≠ 0#32) : s.badDerive n = false := by
  simp only [State.badDerive, State.keyOver, State.auxOver, Bool.or_eq_false_iff, decide_eq_false_iff_not]
  exact ⟨⟨⟨hkey.not_gt, haux.not_gt⟩, not_not_intro hsize⟩, hconst⟩

theorem badRandomToKey_eq_false (hkey : s.key.len.toNat ≤ s.cfg.keyCap) (hsize : s.key.len.toNat = n) :
    s.badRandomToKey n = false := by
  simp only [State.badRandomToKey, State.keyOver, Bool.or_eq_false_iff, decide_eq_false_iff_not]
  exact ⟨hkey.not_gt, not_not_intro hsize⟩

variable (c : Cipher) (keep : Bool)

/-- `DR` with its parameters in range: the derived bytes, `keyInputSize` of them. -/
theorem drCommand_of_fits (hkey : s.key.len.toNat ≤ s.cfg.keyCap) (haux : s.aux.len.toNat ≤ s.cfg.auxCap)
    (hsize : s.key.len.toNat = cipherKeySize c) (hconst : s.aux.len ≠ 0#32) :
    ∃ x : Operand, x.len.toNat = cipherKeyInputSize c ∧
      x.valid = deriveRandom s.cfg.cores c s.key.valid s.aux.valid ∧
      (∀ i, cipherKeyInputSize c ≤ i → Memory.read x.bytes i = 0#8) ∧
      drCommand c keep s =
        .next { s with out := x, key := if keep then s.key else Operand.empty, status := 0x00000002#32 } :=
  checkedKeyed_of_ok (bad := fun s => s.badDerive (cipherKeySize c))
    (fun s => deriveRandom s.cfg.cores c s.key.valid s.aux.valid) keep (badDerive_eq_false hkey haux hsize hconst)
    (length_deriveRandom _ c _ _) ((cipherKeyInputSize_le c).trans_lt (by decide))

/-- `DK` with its parameters in range: random-to-key of the same bytes, `keySize` bytes. -/
theorem dkCommand_of_fits (hkey : s.key.len.toNat ≤ s.cfg.keyCap) (haux : s.aux.len.toNat ≤ s.cfg.auxCap)
    (hsize : s.key.len.toNat = cipherKeySize c) (hconst : s.aux.len ≠ 0#32) :
    ∃ x : Operand, x.len.toNat = cipherKeySize c ∧
      x.valid = randomToKey c (deriveRandom s.cfg.cores c s.key.valid s.aux.valid) ∧
      (∀ i, cipherKeySize c ≤ i → Memory.read x.bytes i = 0#8) ∧
      dkCommand c keep s =
        .next { s with out := x, key := if keep then s.key else Operand.empty, status := 0x00000002#32 } :=
  checkedKeyed_of_ok (bad := fun s => s.badDerive (cipherKeySize c))
    (fun s => deriveKey s.cfg.cores c s.key.valid s.aux.valid) keep (badDerive_eq_false hkey haux hsize hconst)
    (length_randomToKey (length_deriveRandom _ c _ _)) ((cipherKeySize_le c).trans_lt (by decide))

/-- `R2K` of a key of `keyInputSize` bytes. -/
theorem r2kCommand_of_fits (hkey : s.key.len.toNat ≤ s.cfg.keyCap)
    (hsize : s.key.len.toNat = cipherKeyInputSize c) :
    ∃ x : Operand, x.len.toNat = cipherKeySize c ∧ x.valid = randomToKey c s.key.valid ∧
      (∀ i, cipherKeySize c ≤ i → Memory.read x.bytes i = 0#8) ∧
      r2kCommand c keep s =
        .next { s with out := x, key := if keep then s.key else Operand.empty, status := 0x00000002#32 } :=
  checkedKeyed_of_ok (bad := fun s => s.badRandomToKey (cipherKeyInputSize c))
    (fun s => randomToKey c s.key.valid) keep (badRandomToKey_eq_false hkey hsize)
    (length_randomToKey ((length_valid s.key).trans hsize)) ((cipherKeySize_le c).trans_lt (by decide))

end Commands

/-- Settles O11: the five instructions are `drCommand` of the five ciphers. -/
theorem drWritesRandomBytes : Obligations.DrWritesRandomBytes := by
  unfold Obligations.DrWritesRandomBytes
  simp only [List.forall_mem_cons, List.not_mem_nil, false_implies, implies_true, and_true, exec_drDes3, exec_drAes128,
    exec_drAes256, exec_drCam128, exec_drCam256]
  have run (c : Cipher) (keep : Bool) (s : State) := drCommand_of_fits (s := s) c keep
  exact ⟨run .des3, run .aes128, run .aes256, run .cam128, run .cam256⟩

/-- Settles O12: the five instructions are `dkCommand` of the five ciphers. -/
theorem dkWritesTheDerivedKey : Obligations.DkWritesTheDerivedKey := by
  unfold Obligations.DkWritesTheDerivedKey
  simp only [List.forall_mem_cons, List.not_mem_nil, false_implies, implies_true, and_true, exec_dkDes3, exec_dkAes128,
    exec_dkAes256, exec_dkCam128, exec_dkCam256]
  have run (c : Cipher) (keep : Bool) (s : State) := dkCommand_of_fits (s := s) c keep
  exact ⟨run .des3, run .aes128, run .aes256, run .cam128, run .cam256⟩

/-- Settles O13: the five instructions are `r2kCommand` of the five ciphers. -/
theorem randomToKeyWritesTheKey : Obligations.RandomToKeyWritesTheKey := by
  unfold Obligations.RandomToKeyWritesTheKey
  simp only [List.forall_mem_cons, List.not_mem_nil, false_implies, implies_true, and_true, exec_r2kDes3, exec_r2kAes128,
    exec_r2kAes256, exec_r2kCam128, exec_r2kCam256]
  have run (c : Cipher) (keep : Bool) (s : State) := r2kCommand_of_fits (s := s) c keep
  exact ⟨run .des3, run .aes128, run .aes256, run .cam128, run .cam256⟩

end Sys2Proof.Machine
end

section
/-! PROOFS. The PBKDF2 unit (45_pbkdf2.md). First the inner loop of R141 as an exclusive-or over the chain of `U_j`; then blocks
of one size set one after the other, of which the result is a cut, and with that the cases of R143; last the command (R142),
which has the shape of every key-using command. -/

namespace Sys2Proof.Machine

/-! ### One block (R141) -/

section Block
variable (prf : Bytes → Bytes)

/-- The turns from `U` fold in the values of the chain that starts at `U`, which itself is not one of them. -/
theorem pbkdf2Turns_eq_foldl (n : Nat) (u t : Bytes) :
    pbkdf2Turns prf n u t = (List.range n).foldl (fun t j => xorBytes t (prf^[j + 1] u)) t := by
  induction n generalizing u t with
  | zero => rfl
  | succ n ih =>
    rw [pbkdf2Turns, ih, List.range_succ_eq_map, List.foldl_cons, List.foldl_map]
    rfl

variable {prf} {m : Nat} (hprf : ∀ b, (prf b).length = m)
include hprf

theorem length_pbkdf2Turns (n : Nat) (u : Bytes) {t : Bytes} (ht : t.length = m) :
    (pbkdf2Turns prf n u t).length = m := by
  induction n generalizing u t with
  | zero => exact ht
  | succ n ih =>
    refine ih (prf u) ?_
    rw [length_xorBytes, ht, hprf, Nat.min_self]

theorem length_pbkdf2Block (salt : Bytes) (c i : Nat) : (pbkdf2Block prf salt c i).length = m :=
  length_pbkdf2Turns hprf _ _ (hprf _)

/-- `U_1` is itself one turn, from the salt and the index over a string of zeros. -/
theorem pbkdf2Block_eq_turns (salt : Bytes) {c : Nat} (hc : 1 ≤ c) (i : Nat) :
    pbkdf2Block prf salt c i = pbkdf2Turns prf c (salt ++ be32 i) (zeros m) := by
  obtain ⟨c, rfl⟩ := Nat.exists_eq_add_of_le' hc
  rw [pbkdf2Turns, xorBytes_zeros_left (hprf _)]
  rfl

end Block

/-! ### The blocks set one after the other -/

section Concatenation
variable {f : Nat → Bytes} {m : Nat} (hf : ∀ i, (f i).length = m)
include hf

/-- Piece `i` of strings of one length is string `i`. -/
theorem take_drop_flatMap_range {i k : Nat} (hi : i < k) :
    (((List.range k).flatMap f).drop (m * i)).take m = f i := by
  obtain ⟨r, rfl⟩ := Nat.exists_eq_add_of_lt hi
  rw [Nat.add_assoc, List.range_add, List.flatMap_append, List.drop_left' (length_flatMap_range hf i),
    List.range_succ_eq_map, List.map_cons, List.flatMap_cons, Nat.add_zero, List.take_left' (hf i)]

/-- Strings beyond the cut do not matter. -/
theorem take_flatMap_range_of_le {n k l : Nat} (hn : n ≤ m * k) (hkl : k ≤ l) :
    ((List.range l).flatMap f).take n = ((List.range k).flatMap f).take n := by
  obtain ⟨r, rfl⟩ := Nat.exists_eq_add_of_le hkl
  rw [List.range_add, List.flatMap_append,
    List.take_append_of_le_length (hn.trans_eq (length_flatMap_range hf k).symm)]

end Concatenation

/-! ### The function (R141, R143) -/

section Function
variable (p s : Bytes) (c : Nat)

/-- Block `i` of the function, from 0. -/
theorem length_pbkdf2Block_hmac (i : Nat) : (pbkdf2Block (hmac .sha1 p) s c (i + 1)).length = 20 :=
  length_pbkdf2Block (length_hmac .sha1 p) s c (i + 1)

/-- Any number of blocks that reaches far enough gives the same bytes, not just the least one. -/
theorem pbkdf2_eq_take {n k : Nat} (h : n ≤ 20 * k) :
    pbkdf2 p s c n =
      ((List.range k).flatMap fun i => pbkdf2Block (hmac .sha1 p) s c (i + 1)).take n := by
  have hleast : ceilDiv n 20 ≤ k := by
    rw [ceilDiv]
    omega
  exact (take_flatMap_range_of_le (length_pbkdf2Block_hmac p s c) (le_mul_ceilDiv n (by decide)) hleast).symm

theorem length_pbkdf2 (n : Nat) : (pbkdf2 p s c n).length = n := by
  rw [pbkdf2, List.length_take, length_flatMap_range (length_pbkdf2Block_hmac p s c)]
  exact Nat.min_eq_left (le_mul_ceilDiv n (by decide))

/-- The bytes of block `i`, the last block cut to what is left. -/
theorem take_drop_pbkdf2 {n i : Nat} (h : 20 * i < n) :
    ((pbkdf2 p s c n).drop (20 * i)).take 20 = (pbkdf2Block (hmac .sha1 p) s c (i + 1)).take (n - 20 * i) := by
  have hi : i < ceilDiv n 20 :=
    Nat.lt_of_mul_lt_mul_left (h.trans_le (le_mul_ceilDiv n (by decide)))
  rw [pbkdf2, List.drop_take, List.take_take, Nat.min_comm, ← List.take_take,
    take_drop_flatMap_range (length_pbkdf2Block_hmac p s c) hi]

theorem take_pbkdf2 {k n : Nat} (h : k ≤ n) : (pbkdf2 p s c n).take k = pbkdf2 p s c k := by
  have hn := le_mul_ceilDiv n (b := 20) (by decide)
  rw [pbkdf2_eq_take p s c hn, pbkdf2_eq_take p s c (h.trans hn), List.take_take, Nat.min_eq_left h]

/-- A request of at most one block is a cut of the first. -/
theorem pbkdf2_of_le {n : Nat} (h : n ≤ 20) : pbkdf2 p s c n = (pbkdf2Block (hmac .sha1 p) s c 1).take n := by
  rw [pbkdf2_eq_take p s c (k := 1) h, List.range_one, List.flatMap_singleton]

end Function

/-- Settles O59: the bytes of a block are those of `pbkdf2Block`, whose turns are the exclusive-or of `U_1` to `U_c`; for one
and for two iterations the turns are run. -/
theorem pbkdfBlocks : Obligations.PbkdfBlocks := by
  refine fun p s c n hc => ⟨length_pbkdf2 p s c n, fun i hi hin => ?block, fun k hk => (take_pbkdf2 p s c hk).symm,
    pbkdf2_of_le p s 1, pbkdf2_of_le p s 2⟩
  case block =>
    rw [take_drop_pbkdf2 p s c hin, Nat.sub_add_cancel hi, pbkdf2Block_eq_turns (length_hmac .sha1 p) s hc,
      pbkdf2Turns_eq_foldl, hashOutputSize]

/-! ### The command (R142) -/

theorem badPbkdf2_eq_false {s : State} (hkey : s.key.len.toNat ≤ s.cfg.keyCap) (haux : s.aux.len.toNat ≤ s.cfg.auxCap)
    (hiter : s.iter ≠ 0#32) (hreq : s.reqlen ≠ 0#32) (hout : s.reqlen.toNat ≤ s.cfg.outCap) : s.badPbkdf2 = false := by
  simp only [State.badPbkdf2, State.keyOver, State.auxOver, Bool.or_eq_false_iff, decide_eq_false_iff_not]
  exact ⟨⟨⟨⟨hkey.not_gt, haux.not_gt⟩, hiter⟩, hreq⟩, hout.not_gt⟩

theorem execPbkdf2Sha1_eq_checkedKeyed (keep : Bool) (s : State) :
    execPbkdf2Sha1 keep s =
      checkedKeyed State.badPbkdf2 (fun s => pbkdf2 s.key.valid s.aux.valid s.iter.toNat s.reqlen.toNat) keep s := rfl

/-- Settles O14: no parameter test fails, and the result has as many bytes as `REQLEN` says. -/
theorem pbkdfWritesDerivedBytes : Obligations.PbkdfWritesDerivedBytes := by
  intro keep s hkey haux hiter hreq hout
  obtain ⟨x, hsize, hvalid, hzeros, hrun⟩ :=
    checkedKeyed_of_ok (fun s => pbkdf2 s.key.valid s.aux.valid s.iter.toNat s.reqlen.toNat) keep
      (badPbkdf2_eq_false hkey haux hiter hreq hout) (length_pbkdf2 _ _ _ _) s.reqlen.isLt
  rw [exec_pbkdf2Sha1, execPbkdf2Sha1_eq_checkedKeyed]
  exact ⟨x, BitVec.eq_of_toNat_eq hsize, hvalid, hzeros, hrun⟩

end Sys2Proof.Machine
end

section
/-! PROOFS. The confounder generator (46_confounder.md). First the bytes of a draw (R151), stored to an operand register; then
the parameter test of `CONF` and the command (R152). -/

namespace Sys2Proof.Machine

/-! ### The bytes of a draw (R151) -/

/-- Byte `i` of a string stored to an operand register (R8). -/
theorem read_ofBytes (v : Bytes) (i : Nat) : Memory.read (Operand.ofBytes v).bytes i = v.getD i 0#8 := by
  rw [ofBytes_bytes, read_place, if_pos (Nat.zero_le i), Nat.sub_zero]

theorem getD_drawBytes (s : State) (n i : Nat) :
    (drawBytes s n).getD i 0#8 = if i < n then Config.draw s.source s.fresh i else 0#8 := by
  split
  case isTrue h =>
    rw [List.getD_eq_getElem _ _ ((length_drawBytes s n).symm ▸ h)]
    simp only [drawBytes, List.getElem_map, List.getElem_range]
  case isFalse h => exact List.getD_eq_default _ _ ((length_drawBytes s n).trans_le (Nat.le_of_not_lt h))

/-- A draw of as many bytes as a register says, stored to an operand register, has that register's value for its length. -/
theorem ofBytes_drawBytes_len (s : State) (n : Word) : (Operand.ofBytes (drawBytes s n.toNat)).len = n := by
  rw [ofBytes_len, length_drawBytes, BitVec.ofNat_toNat, BitVec.setWidth_eq]

/-! ### The command (R152) -/

theorem badConf_eq_false {s : State} (hout : s.reqlen.toNat ≤ s.cfg.outCap) : s.badConf = false := by
  rw [State.badConf, decide_eq_false_iff_not]
  exact hout.not_gt

/-- Settles O15: the parameter test does not fail, and the draw is published, whose length is `REQLEN`. -/
theorem confWritesTheNextDraw : Obligations.ConfWritesTheNextDraw := by
  intro keep s hout
  refine ⟨Operand.ofBytes (drawBytes s s.reqlen.toNat), ofBytes_drawBytes_len s s.reqlen, fun i => ?bytes, ?run⟩
  case bytes => rw [read_ofBytes, getD_drawBytes]
  case run =>
    rw [exec_conf, execConf, badConf_eq_false hout, if_neg Bool.false_ne_true, publish, statusDone_false]

end Sys2Proof.Machine
end

section
/-! PROOFS. Truncation and MAC comparison (47_compare.md). First the two commands with their tests as statements about the
registers; then the bytes beyond `OUTLEN`, which the invariant has at zero and `TRUNC` therefore need not erase when it keeps
all of `O` (R160); then the accumulated difference of R162, which is zero for equal strings only. -/

namespace Sys2Proof.Machine

/-! ### Truncation (R160) -/

section Trunc
variable {s : State} (keep : Bool)

theorem execTrunc_of_tooLong (h : s.out.len.toNat < s.reqlen.toNat) :
    execTrunc keep s =
      .next { s with out := Operand.empty, errlog := s.errlog ||| 0x00000004#32, status := 0x00000206#32 } := by
  have hbad : s.badTrunc = true := decide_eq_true h
  rw [execTrunc, if_pos hbad, raiseError_invalidParameter]

/-- What `TRUNC` publishes are the valid bytes of `O` with `REQLEN` for its length register. -/
theorem execTrunc_of_fits (h : s.reqlen.toNat ≤ s.out.len.toNat) :
    execTrunc keep s =
      .next { s with out := Operand.ofBytes (Operand.valid { s.out with len := s.reqlen }), status := 0x00000002#32 } := by
  have hok : ¬ s.badTrunc = true := by
    rw [State.badTrunc, decide_eq_true_eq]
    exact h.not_gt
  rw [execTrunc, if_neg hok, publish, statusDone_false, Operand.valid]

end Trunc

/-- An index that is not listed reads zero. -/
theorem read_eq_zero_of_forall_ne {m : Memory} {i : Nat} (h : ∀ c ∈ m, c.1 ≠ i) : Memory.read m i = 0#8 := by
  induction m with
  | nil => rfl
  | cons c m ih =>
    rw [List.forall_mem_cons] at h
    obtain ⟨hc, hm⟩ := h
    rw [read_cons, if_neg hc, ih hm]

/-- Storing the valid bytes of an operand register anew changes nothing if no byte beyond them is set. -/
theorem ofBytes_valid {x : Operand} (hwf : Memory.wf x.bytes) (htail : ∀ c ∈ x.bytes, c.1 < x.len.toNat) :
    Operand.ofBytes x.valid = x := by
  have hbytes : (Operand.ofBytes x.valid).bytes = x.bytes := by
    refine memory_ext (wf_place 0 x.valid) hwf fun i => ?_
    rw [read_ofBytes_valid]
    split
    case isTrue => rfl
    case isFalse hi => exact (read_eq_zero_of_forall_ne fun c hc => by have := htail c hc; omega).symm
  have hlen : (Operand.ofBytes x.valid).len = x.len := ofBytes_valid_len x
  cases x
  exact congrArg₂ Operand.mk hbytes hlen

/-- Settles O7: `TRUNC` stores the leading bytes of `O` anew, which leaves an `O` of that length as it was. -/
theorem truncKeepsTheLeadingBytes : Obligations.TruncKeepsTheLeadingBytes := by
  refine ⟨decode_encode (.trunc false), fun keep s =>
    ⟨fun hfits => ?fits, execTrunc_of_tooLong keep, fun hinv heq => ?all⟩⟩
  case fits =>
    exact ⟨_, ofBytes_valid_len _, read_ofBytes_valid { s.out with len := s.reqlen }, execTrunc_of_fits keep hfits⟩
  case all =>
    obtain ⟨hwf, -⟩ := hinv.out
    have hsame : Operand.ofBytes (Operand.valid { s.out with len := s.reqlen }) = s.out := by
      rw [heq]
      exact ofBytes_valid hwf hinv.outTail
    rw [exec_trunc, execTrunc_of_fits keep (by rw [heq]), hsame]

/-! ### Comparison (R162) -/

theorem foldl_or_eq_zero_iff (bytes : Bytes) (acc : Byte) :
    bytes.foldl (fun d x => d ||| x) acc = 0#8 ↔ acc = 0#8 ∧ ∀ b ∈ bytes, b = 0#8 := by
  induction bytes generalizing acc with
  | nil => simp
  | cons b bytes ih => rw [List.foldl_cons, ih, BitVec.or_eq_zero_iff, List.forall_mem_cons, and_assoc]

theorem forall_xorBytes_eq_zero_iff {a b : Bytes} (h : a.length = b.length) :
    (∀ x ∈ xorBytes a b, x = 0#8) ↔ a = b := by
  induction a generalizing b with
  | nil => simp [xorBytes, List.eq_nil_of_length_eq_zero h.symm]
  | cons x a ih =>
    cases b with
    | nil => cases h
    | cons y b =>
      rw [show xorBytes (x :: a) (y :: b) = (x ^^^ y) :: xorBytes a b from rfl, List.forall_mem_cons,
        ih (Nat.succ.inj h), BitVec.xor_eq_zero_iff, List.cons.injEq]

/-- Equal strings have a zero difference, and among strings of one length they alone. -/
theorem macDiff_eq_zero_iff {a b : Bytes} (h : a.length = b.length) : macDiff a b = 0#8 ↔ a = b := by
  rw [macDiff, foldl_or_eq_zero_iff, and_iff_right rfl, forall_xorBytes_eq_zero_iff h]

theorem valid_eq_valid_iff {x y : Operand} (h : x.len = y.len) :
    x.valid = y.valid ↔ ∀ i, i < x.len.toNat → Memory.read x.bytes i = Memory.read y.bytes i := by
  rw [Operand.valid, Operand.valid, ← h, Memory.slice, Memory.slice, List.map_inj_left]
  simp only [List.mem_range]

/-- When the comparison succeeds: one nonzero length and every byte equal. -/
theorem macMismatch_eq_false_iff {s : State} :
    s.macMismatch = false ↔ s.out.len ≠ 0#32 ∧ s.out.len = s.aux.len ∧
      ∀ i, i < s.out.len.toNat → Memory.read s.out.bytes i = Memory.read s.aux.bytes i := by
  simp only [State.macMismatch, Bool.or_eq_false_iff, decide_eq_false_iff_not, and_assoc, ne_eq, not_not]
  refine and_congr_right fun _ => and_congr_right fun hlen => ?_
  have hlengths : s.out.valid.length = s.aux.valid.length := by rw [length_valid, length_valid, hlen]
  rw [macDiff_eq_zero_iff hlengths, valid_eq_valid_iff hlen]

/-- R233 for `IntegrityFailure`: its code is 3, so bit 3 of `ERRLOG`. -/
theorem raiseError_integrityFailure (s : State) :
    raiseError .integrityFailure false s =
      { s with out := Operand.empty, errlog := s.errlog ||| 0x00000008#32, status := 0x00000306#32 } := rfl

theorem statusDone_true : statusDone true = 0x0000000A#32 := rfl

section Maccmp
variable {s : State} (keep : Bool)

theorem auxOver_eq_false (h : s.aux.len.toNat ≤ s.cfg.auxCap) : s.auxOver = false := by
  rw [State.auxOver, decide_eq_false_iff_not]
  exact h.not_gt

theorem execMaccmp_of_tooLong (h : s.cfg.auxCap < s.aux.len.toNat) :
    execMaccmp keep s =
      .next { s with out := Operand.empty, errlog := s.errlog ||| 0x00000004#32, status := 0x00000206#32 } := by
  have hover : s.auxOver = true := decide_eq_true h
  rw [execMaccmp, if_pos hover, raiseError_invalidParameter]

theorem execMaccmp_of_match (haux : s.aux.len.toNat ≤ s.cfg.auxCap) (h : s.macMismatch = false) :
    execMaccmp keep s = .next { s with status := 0x0000000A#32 } := by
  rw [execMaccmp, auxOver_eq_false haux, h, if_neg Bool.false_ne_true, if_neg Bool.false_ne_true,
    statusDone_true]

theorem execMaccmp_of_mismatch (haux : s.aux.len.toNat ≤ s.cfg.auxCap) (h : s.macMismatch = true) :
    execMaccmp keep s =
      .next { s with out := Operand.empty, errlog := s.errlog ||| 0x00000008#32, status := 0x00000306#32 } := by
  rw [execMaccmp, auxOver_eq_false haux, if_neg Bool.false_ne_true, if_pos h, raiseError_integrityFailure]

end Maccmp

/-- Settles O16: the three branches of `MACCMP`, with the test for a mismatch read as R162 has it. -/
theorem maccmpComparesEveryByte : Obligations.MaccmpComparesEveryByte := by
  refine ⟨decode_encode (.maccmp false), fun keep s =>
    ⟨execMaccmp_of_tooLong keep, fun haux hne hlen hbytes => ?equal, fun haux hdiffer => ?differ⟩⟩
  case equal => exact execMaccmp_of_match keep haux (macMismatch_eq_false_iff.2 ⟨hne, hlen, hbytes⟩)
  case differ =>
    have hmismatch : s.macMismatch = true := by
      rw [← Bool.not_eq_false, macMismatch_eq_false_iff]
      rintro ⟨hne, hlen, hbytes⟩
      obtain hzero | hlengths | ⟨i, hi, hbyte⟩ := hdiffer
      · exact hne hzero
      · exact hlengths hlen
      · exact hbyte (hbytes i hi)
    exact execMaccmp_of_mismatch keep haux hmismatch

end Sys2Proof.Machine
end

section
/-! PROOFS. The providers (48_providers.md). First the sizes of R170 to R172; then the external cores, permutations carried over
from blocks as values to blocks as bytes (R173); then the intended DES (R181; its inside is presumed, log 5): a bit permutation
is described bit by bit, the key choice does not look at the parity bits, and the rounds under the reversed subkeys undo the
rounds. -/

namespace Sys2Proof.Machine

/-! ### Sizes (R123, R170, R171, R172) -/

/-- Settles O48: each hash has the output size of its registry row. -/
theorem hashOutputSizes : Obligations.HashOutputSizes := fun m => ⟨length_hash .sha1 m, length_hash .md5 m⟩

theorem randomToKey_of_ne_des3 {c : Cipher} (h : c ≠ .des3) (r : Bytes) : randomToKey c r = r := by
  cases c with
  | des3 => exact absurd rfl h
  | aes128 | aes256 | cam128 | cam256 => rfl

theorem length_deriveKey (cores : Cores) (c : Cipher) (key const : Bytes) :
    (deriveKey cores c key const).length = cipherKeySize c :=
  length_randomToKey (length_deriveRandom cores c key const)

/-- Settles O54: the sizes are those of the registry, and 21 bytes are three pieces of 7. -/
theorem derivedSizesAndRandomToKey : Obligations.DerivedSizesAndRandomToKey := by
  have sizes (c : Cipher) (cores : Cores) (key const : Bytes) :
      (deriveRandom cores c key const).length = cipherKeyInputSize c ∧
        (deriveKey cores c key const).length = cipherKeySize c ∧
        (c ≠ .des3 → deriveKey cores c key const = deriveRandom cores c key const) :=
    ⟨length_deriveRandom cores c key const, length_deriveKey cores c key const, fun h => randomToKey_of_ne_des3 h _⟩
  refine ⟨?rows, fun c r h => randomToKey_of_ne_des3 h r, fun r hr => ⟨length_randomToKey hr, ?thirds⟩⟩
  case rows =>
    simp only [List.forall_mem_cons, List.not_mem_nil, false_implies, implies_true, and_true]
    exact ⟨sizes .des3, sizes .aes128, sizes .aes256, sizes .cam128, sizes .cam256⟩
  case thirds =>
    refine ⟨r.take 7, (r.drop 7).take 7, (r.drop 14).take 7, ?cut, ?first, ?second, ?last, rfl⟩
    case cut =>
      have hrest : (r.drop 14).take 7 = (r.drop 7).drop 7 := by
        rw [List.drop_drop, List.take_of_length_le (by rw [List.length_drop]; omega)]
      rw [hrest, List.append_assoc, List.take_append_drop, List.take_append_drop]
    all_goals
      simp only [List.length_take, List.length_drop]
      omega

/-! ### The external cores (R173) -/

theorem bytesToBits_injective {n : Nat} {b c : Bytes} (hb : b.length = n) (hc : c.length = n)
    (h : bytesToBits (8 * n) b = bytesToBits (8 * n) c) : b = c := by
  have hvalue : bytesToNat b = bytesToNat c := by
    rw [← toNat_bytesToBits (congrArg (8 * ·) hb), ← toNat_bytesToBits (congrArg (8 * ·) hc), h]
  rw [← natToBytes_bytesToNat b, ← natToBytes_bytesToNat c, hvalue, hb, hc]

theorem bytesToBits_natToBytes_toNat {n : Nat} (x : BitVec (8 * n)) :
    bytesToBits (8 * n) (natToBytes n x.toNat) = x := by
  rw [bytesToBits_natToBytes, BitVec.ofNat_toNat, BitVec.setWidth_eq]

theorem natToBytes_toNat_bytesToBits {n : Nat} {b : Bytes} (h : b.length = n) :
    natToBytes n (bytesToBits (8 * n) b).toNat = b := by
  rw [toNat_bytesToBits (congrArg (8 * ·) h), ← h, natToBytes_bytesToNat]

/-- A permutation of the values of `n` bytes is one of the strings of `n` bytes. -/
theorem permutes_blocks {n : Nat} {enc : Bytes → Bytes} (π : Equiv.Perm (BitVec (8 * n)))
    (henc : ∀ b, enc b = natToBytes n (π (bytesToBits (8 * n) b)).toNat) :
    (∀ b c : Bytes, b.length = n → c.length = n → enc b = enc c → b = c) ∧
      ∀ c : Bytes, c.length = n → ∃ b : Bytes, b.length = n ∧ enc b = c := by
  refine ⟨fun b c hb hc h => ?injective, fun c hc => ?reached⟩
  case injective =>
    rw [henc, henc] at h
    have hvalues := congrArg (bytesToBits (8 * n)) h
    rw [bytesToBits_natToBytes_toNat, bytesToBits_natToBytes_toNat] at hvalues
    exact bytesToBits_injective hb hc (π.injective hvalues)
  case reached =>
    refine ⟨natToBytes n (π.symm (bytesToBits (8 * n) c)).toNat, length_natToBytes n _, ?_⟩
    rw [henc, bytesToBits_natToBytes_toNat, Equiv.apply_symm_apply, natToBytes_toNat_bytesToBits hc]

/-- Settles O56: each external core is the opaque permutation of its key. -/
theorem externalCoresPermuteBlocks : Obligations.ExternalCoresPermuteBlocks := by
  unfold Obligations.ExternalCoresPermuteBlocks
  simp only [List.forall_mem_cons, List.not_mem_nil, false_implies, implies_true, and_true]
  refine ⟨fun key => ?des3, fun key => ?aes128, fun key => ?aes256, fun key => ?cam128, fun key => ?cam256⟩
  case des3 => exact permutes_blocks (n := 8) (Config.extDes3 (bytesToBits 192 key)) fun _ => rfl
  case aes128 => exact permutes_blocks (n := 16) (Config.extAes128 (bytesToBits 128 key)) fun _ => rfl
  case aes256 => exact permutes_blocks (n := 16) (Config.extAes256 (bytesToBits 256 key)) fun _ => rfl
  case cam128 => exact permutes_blocks (n := 16) (Config.extCam128 (bytesToBits 128 key)) fun _ => rfl
  case cam256 => exact permutes_blocks (n := 16) (Config.extCam256 (bytesToBits 256 key)) fun _ => rfl

/-! ### Bit permutations of DES (R181) -/

section Permute
variable {n m : Nat} {table : List Nat}

/-- The fold of a permutation puts the bit that the last entry of the table names lowest. -/
theorem testBit_desPermute_foldl (x : BitVec n) (table : List Nat) (j : Nat) :
    (table.foldl (fun acc p => 2 * acc + (x.getMsbD (p - 1)).toNat) 0).testBit j =
      (table.reverse[j]?).any fun p => x.getMsbD (p - 1) := by
  induction table using List.reverseRecOn generalizing j with
  | nil => simp
  | append_singleton table p ih =>
    rw [List.foldl_append, List.reverse_append, List.foldl_cons, List.foldl_nil, List.reverse_singleton,
      List.singleton_append]
    cases j with
    | zero =>
      rw [Nat.testBit_zero]
      cases hbit : x.getMsbD (p - 1) <;> simp [hbit]
    | succ j =>
      rw [Nat.testBit_succ, List.getElem?_cons_succ, ← ih]
      congr 1
      have := (x.getMsbD (p - 1)).toNat_le
      omega

/-- Bit `i` from the top of a permuted value is the bit that entry `i` of the table names. -/
theorem getMsbD_desPermute (hlen : table.length = m) (x : BitVec n) {i : Nat} (hi : i < m) :
    (desPermute table m x).getMsbD i = x.getMsbD (table.getD i 0 - 1) := by
  have hrev : table.reverse[m - 1 - i]? = some (table.getD i 0) := by
    subst hlen
    rw [List.getElem?_reverse (by omega), show table.length - 1 - (table.length - 1 - i) = i by omega,
      List.getElem?_eq_getElem hi, List.getD_eq_getElem _ _ hi]
  rw [BitVec.getMsbD_eq_getLsbD, desPermute, BitVec.getLsbD_ofNat, testBit_desPermute_foldl, hrev]
  simp [hi, show m - 1 - i < m by omega]

/-- A permutation looks only at the bits that its table lists. -/
theorem desPermute_congr {x y : BitVec n} (hlen : table.length = m)
    (h : ∀ p ∈ table, x.getMsbD (p - 1) = y.getMsbD (p - 1)) : desPermute table m x = desPermute table m y := by
  refine BitVec.eq_of_getMsbD_eq fun i hi => ?_
  rw [getMsbD_desPermute hlen x hi, getMsbD_desPermute hlen y hi]
  refine h _ ?_
  rw [List.getD_eq_getElem _ _ (hlen ▸ hi)]
  exact List.getElem_mem _

/-- The second permutation undoes the first if its table reads back the places. -/
theorem desPermute_desPermute {first second : List Nat} (hfirst : first.length = n) (hsecond : second.length = n)
    (h : ∀ i < n, second.getD i 0 - 1 < n ∧ first.getD (second.getD i 0 - 1) 0 - 1 = i) (x : BitVec n) :
    desPermute second n (desPermute first n x) = x := by
  refine BitVec.eq_of_getMsbD_eq fun i hi => ?_
  obtain ⟨hlt, hback⟩ := h i hi
  rw [getMsbD_desPermute hsecond _ hi, getMsbD_desPermute hfirst _ hlt, hback]

end Permute

theorem desFP_desIP (x : BitVec 64) : desPermute desFP 64 (desPermute desIP 64 x) = x :=
  desPermute_desPermute (first := desIP) (second := desFP) rfl rfl (by decide) x

theorem desIP_desFP (x : BitVec 64) : desPermute desIP 64 (desPermute desFP 64 x) = x :=
  desPermute_desPermute (first := desFP) (second := desIP) rfl rfl (by decide) x

/-! ### The parity bits (R181) -/

/-- The bits of a DES key that are not parity bits. -/
def desKeyMask : BitVec 64 := 0xfefefefefefefefe#64

/-- The first key choice lists no parity bit. -/
theorem getMsbD_desKeyMask : ∀ p ∈ desPC1, desKeyMask.getMsbD (p - 1) = true := by decide

theorem desSubkeys_and_mask (key : BitVec 64) : desSubkeys (key &&& desKeyMask) = desSubkeys key := by
  have hchoice : desPermute desPC1 56 (key &&& desKeyMask) = desPermute desPC1 56 key :=
    desPermute_congr rfl fun p hp => by rw [BitVec.getMsbD_and, getMsbD_desKeyMask p hp, Bool.and_true]
  rw [desSubkeys, hchoice, desSubkeys]

theorem desEncrypt_and_mask (key block : BitVec 64) : desEncrypt (key &&& desKeyMask) block = desEncrypt key block := by
  rw [desEncrypt, desSubkeys_and_mask, desEncrypt]

theorem desDecrypt_and_mask (key block : BitVec 64) : desDecrypt (key &&& desKeyMask) block = desDecrypt key block := by
  rw [desDecrypt, desSubkeys_and_mask, desDecrypt]

/-- Settles O57: of each of the three keys the parity bits are masked away, which changes no subkey. -/
theorem tripleDesIgnoresParity : Obligations.TripleDesIgnoresParity := by
  intro key block
  have hmask (start : Nat) (hstart : start ∈ [0, 64, 128]) :
      (0xfefefefefefefefefefefefefefefefefefefefefefefefe#192).extractLsb' start 64 = desKeyMask := by
    revert start
    decide
  rw [des3Encrypt, BitVec.extractLsb'_and, BitVec.extractLsb'_and, BitVec.extractLsb'_and, hmask 0 (by simp),
    hmask 64 (by simp), hmask 128 (by simp), desEncrypt_and_mask, desDecrypt_and_mask, desEncrypt_and_mask, des3Encrypt]

/-! ### Decryption (R181) -/

theorem desRound_swap_desRound (lr : Word × Word) (k : BitVec 48) : desRound (desRound lr k).swap k = lr.swap := by
  simp only [desRound, Prod.swap, BitVec.xor_assoc, BitVec.xor_self, BitVec.xor_zero]

/-- The rounds from last to first, with the halves exchanged, lead back (the Feistel structure). -/
theorem foldl_desRound_reverse (subkeys : List (BitVec 48)) (lr : Word × Word) :
    subkeys.reverse.foldl desRound (subkeys.foldl desRound lr).swap = lr.swap := by
  induction subkeys generalizing lr with
  | nil => rfl
  | cons k subkeys ih =>
    rw [List.foldl_cons, List.reverse_cons, List.foldl_append, ih, List.foldl_cons, List.foldl_nil,
      desRound_swap_desRound]

/-- The two halves of a block, the upper one first. -/
def desHalves (x : BitVec 64) : Word × Word := (x.extractLsb' 32 32, x.extractLsb' 0 32)

theorem desHalves_append (a b : Word) : desHalves (a ++ b) = (a, b) := by
  rw [desHalves, BitVec.extractLsb'_append_eq_left, BitVec.extractLsb'_append_eq_right]

theorem desHalves_join (x : BitVec 64) : (desHalves x).1 ++ (desHalves x).2 = x :=
  BitVec.extractLsb'_append_extractLsb'

/-- A run is the rounds on the halves, which come out exchanged, between the two permutations. -/
theorem desRun_eq (subkeys : List (BitVec 48)) (block : BitVec 64) :
    desRun subkeys block =
      let lr := (subkeys.foldl desRound (desHalves (desPermute desIP 64 block))).swap
      desPermute desFP 64 (lr.1 ++ lr.2) := rfl

theorem desRun_reverse_desRun (subkeys : List (BitVec 48)) (block : BitVec 64) :
    desRun subkeys.reverse (desRun subkeys block) = block := by
  rw [desRun_eq subkeys, desRun_eq]
  simp only [desIP_desFP, desHalves_append, Prod.mk.eta, foldl_desRound_reverse, Prod.swap_swap, desHalves_join,
    desFP_desIP]

/-- Settles O58: decryption is the run under the reversed subkeys. -/
theorem desDecryptUndoesEncrypt : Obligations.DesDecryptUndoesEncrypt :=
  fun key block => desRun_reverse_desRun (desSubkeys key) block

end Sys2Proof.Machine
end

section
/-! PROOFS. Errors (60_exceptions.md). First the causes of `InvalidParameter` (R234): every command but three tests its
parameters once and otherwise ends without error, so it is enough that the test says what R234 lists; then rejected words
(R233), the end of every command word (R240) and what an error leaves (R17); last the examples of R232. -/

namespace Sys2Proof.Machine

/-! ### The causes of `InvalidParameter` (R234) -/

/-- On a cause the error epilogue of `InvalidParameter` is the whole effect, and on none `ECODE` is not its code. -/
def RaisesExactly (keyUsing : Bool) (cause : State → Prop) (cmd : Bool → State → Result) : Prop :=
  ∀ (keep : Bool) (s : State),
    (cause s →
      cmd keep s =
        .next { s with
          out := Operand.empty
          key := if keyUsing = true ∧ keep = false then Operand.empty else s.key
          errlog := s.errlog ||| 0x00000004#32
          status := 0x00000206#32 }) ∧
    (¬ cause s → ∀ t, cmd keep s = .next t → t.ecode ≠ 2#4)

theorem ecode_ne_of_statusDone {t : State} {m : Bool} (h : t.status = statusDone m) : t.ecode ≠ 2#4 := by
  obtain ⟨-, -, -, -, hecode, -⟩ := fields_of_statusDone h
  rw [hecode]
  decide

/-- R233 for `InvalidParameter`, with the fate of `K` as `KEEP` decides it. -/
theorem raiseError_invalidParameter_keyed (keyUsing keep : Bool) (s : State) :
    raiseError .invalidParameter (keyUsing && !keep) s =
      { s with
        out := Operand.empty
        key := if keyUsing = true ∧ keep = false then Operand.empty else s.key
        errlog := s.errlog ||| 0x00000004#32
        status := 0x00000206#32 } := by
  cases keyUsing <;> cases keep <;> rfl

/-- A command that tests its parameters once and otherwise ends without error. -/
theorem raisesExactly_ite {keyUsing : Bool} {cause : State → Prop} {bad : State → Bool} {done : Bool → State → State}
    (hbad : ∀ s, bad s = true ↔ cause s) (hdone : ∀ keep s, (done keep s).status = statusDone false) :
    RaisesExactly keyUsing cause fun keep s =>
      if bad s then .next (raiseError .invalidParameter (keyUsing && !keep) s) else .next (done keep s) := by
  refine fun keep s => ⟨fun h => ?raised, fun h t ht => ?finished⟩
  case raised => exact (if_pos ((hbad s).2 h)).trans (congrArg _ (raiseError_invalidParameter_keyed keyUsing keep s))
  case finished =>
    cases (if_neg (mt (hbad s).1 h)).symm.trans ht
    exact ecode_ne_of_statusDone (hdone keep s)

/-- A command that cannot fail. -/
theorem raisesExactly_never {done : Bool → State → State} (hdone : ∀ keep s, (done keep s).status = statusDone false) :
    RaisesExactly false (fun _ => False) fun keep s => .next (done keep s) := by
  refine fun keep s => ⟨False.elim, fun _ t ht => ?_⟩
  cases ht
  exact ecode_ne_of_statusDone (hdone keep s)

theorem raisesExactly_nop : RaisesExactly false (fun _ => False) execNop :=
  raisesExactly_never fun _ s => publish_status [] s

theorem raisesExactly_zeroize : RaisesExactly false (fun _ => False) execZeroize :=
  raisesExactly_never fun _ _ => rfl

theorem raisesExactly_keyed {cause : State → Prop} {bad : State → Bool} (result : State → Bytes)
    (hbad : ∀ s, bad s = true ↔ cause s) : RaisesExactly true cause (checkedKeyed bad result) :=
  raisesExactly_ite hbad fun keep s => publishKeyed_status keep (result s) s

theorem raisesExactly_move (cap : Config → Nat) (put : Operand → State → State) :
    RaisesExactly false (fun s => s.cfg.outCap < s.out.len.toNat ∨ cap s.cfg < s.out.len.toNat) fun _ s =>
      checkedMove (cap s.cfg) (fun x => put x s) s :=
  raisesExactly_ite (fun _ => outTooLong_iff) fun _ _ => publish_status _ _

theorem raisesExactly_trunc : RaisesExactly false (fun s => s.out.len.toNat < s.reqlen.toNat) execTrunc :=
  raisesExactly_ite (fun _ => decide_eq_true_iff) fun _ _ => publish_status _ _

theorem raisesExactly_nfold :
    RaisesExactly false
      (fun s => s.cfg.msgCap < s.msg.len.toNat ∨ s.msg.len = 0#32 ∨ s.nbits = 0#32 ∨ s.nbits.toNat % 8 ≠ 0 ∨
        s.cfg.outCap < s.nbits.toNat / 8) execNfold :=
  raisesExactly_ite (bad := State.badNfold)
    (fun _ => by simp only [State.badNfold, State.msgOver, Bool.or_eq_true, decide_eq_true_eq, or_assoc])
    fun _ _ => publish_status _ _

theorem raisesExactly_conf : RaisesExactly false (fun s => s.cfg.outCap < s.reqlen.toNat) execConf :=
  raisesExactly_ite (fun _ => decide_eq_true_iff) fun _ s => publish_status (drawBytes s s.reqlen.toNat) s

/-- `MACCMP` can fail in a second way, whose code is another. -/
theorem raisesExactly_maccmp : RaisesExactly false (fun s => s.cfg.auxCap < s.aux.len.toNat) execMaccmp := by
  refine fun keep s => ⟨fun h => execMaccmp_of_tooLong keep h, fun h t ht => ?_⟩
  obtain ⟨hover, -⟩ | ⟨-, -, rfl⟩ | ⟨-, -, rfl⟩ := execMaccmp_next ht
  · exact absurd (of_decide_eq_true hover) h
  · obtain ⟨-, -, -, -, hecode, -⟩ := fields_of_statusError (raiseError_status .integrityFailure false s)
    rw [hecode]
    decide
  · exact ecode_ne_of_statusDone (m := true) rfl

theorem raisesExactly_hmac (alg : HashAlg) :
    RaisesExactly true (fun s => s.cfg.keyCap < s.key.len.toNat ∨ s.cfg.msgCap < s.msg.len.toNat) (hmacCommand alg) :=
  raisesExactly_keyed (bad := State.badHmac) _ fun _ => by
    simp only [State.badHmac, State.keyOver, State.msgOver, Bool.or_eq_true, decide_eq_true_eq]

theorem raisesExactly_cmac (c : Cipher) :
    RaisesExactly true
      (fun s => s.cfg.keyCap < s.key.len.toNat ∨ s.cfg.msgCap < s.msg.len.toNat ∨ s.key.len.toNat ≠ cipherKeySize c)
      (cmacCommand c) :=
  raisesExactly_keyed (bad := fun s => s.badCmac (cipherKeySize c)) _ fun _ => by
    simp only [State.badCmac, State.keyOver, State.msgOver, Bool.or_eq_true, decide_eq_true_eq, or_assoc]

theorem badDerive_iff {s : State} {n : Nat} :
    s.badDerive n = true ↔ s.cfg.keyCap < s.key.len.toNat ∨ s.cfg.auxCap < s.aux.len.toNat ∨ s.key.len.toNat ≠ n ∨
      s.aux.len = 0#32 := by
  simp only [State.badDerive, State.keyOver, State.auxOver, Bool.or_eq_true, decide_eq_true_eq, or_assoc]

theorem raisesExactly_dr (c : Cipher) :
    RaisesExactly true
      (fun s => s.cfg.keyCap < s.key.len.toNat ∨ s.cfg.auxCap < s.aux.len.toNat ∨
        s.key.len.toNat ≠ cipherKeySize c ∨ s.aux.len = 0#32) (drCommand c) :=
  raisesExactly_keyed _ fun _ => badDerive_iff

theorem raisesExactly_dk (c : Cipher) :
    RaisesExactly true
      (fun s => s.cfg.keyCap < s.key.len.toNat ∨ s.cfg.auxCap < s.aux.len.toNat ∨
        s.key.len.toNat ≠ cipherKeySize c ∨ s.aux.len = 0#32) (dkCommand c) :=
  raisesExactly_keyed _ fun _ => badDerive_iff

theorem raisesExactly_r2k (c : Cipher) :
    RaisesExactly true (fun s => s.cfg.keyCap < s.key.len.toNat ∨ s.key.len.toNat ≠ cipherKeyInputSize c)
      (r2kCommand c) :=
  raisesExactly_keyed (bad := fun s => s.badRandomToKey (cipherKeyInputSize c)) _ fun _ => by
    simp only [State.badRandomToKey, State.keyOver, Bool.or_eq_true, decide_eq_true_eq]

theorem raisesExactly_pbkdf2 :
    RaisesExactly true
      (fun s => s.cfg.keyCap < s.key.len.toNat ∨ s.cfg.auxCap < s.aux.len.toNat ∨ s.iter = 0#32 ∨ s.reqlen = 0#32 ∨
        s.cfg.outCap < s.reqlen.toNat) execPbkdf2Sha1 :=
  raisesExactly_keyed (bad := State.badPbkdf2) _ fun _ => by
    simp only [State.badPbkdf2, State.keyOver, State.auxOver, Bool.or_eq_true, decide_eq_true_eq, or_assoc]

/-- Settles O17: each row is the rule of its command or family of commands. -/
theorem invalidParameterCausesAreExact : Obligations.InvalidParameterCausesAreExact := by
  unfold Obligations.InvalidParameterCausesAreExact
  intro never keyOver auxOver msgOver outOver hmacBad cmacBad deriveBad r2kBad rows
  suffices h : ∀ p ∈ rows, RaisesExactly p.2.1 p.2.2 fun keep => exec (p.1 keep) from h
  simp only [rows, List.forall_mem_append, List.forall_mem_cons, List.not_mem_nil, false_implies, implies_true, and_true]
  refine ⟨⟨⟨?housekeeping, ?hashes⟩, ?derivations⟩, ?others⟩
  case housekeeping =>
    exact ⟨raisesExactly_nop, raisesExactly_zeroize,
      raisesExactly_move Config.keyCap fun x s => { s with key := x },
      raisesExactly_move Config.auxCap fun x s => { s with aux := x },
      raisesExactly_move Config.msgCap fun x s => { s with msg := x }, raisesExactly_trunc⟩
  case hashes =>
    exact ⟨raisesExactly_nfold, raisesExactly_hmac .sha1, raisesExactly_hmac .md5, raisesExactly_cmac .aes128,
      raisesExactly_cmac .aes256, raisesExactly_cmac .cam128, raisesExactly_cmac .cam256⟩
  case derivations =>
    exact ⟨raisesExactly_dr .des3, raisesExactly_dr .aes128, raisesExactly_dr .aes256, raisesExactly_dr .cam128,
      raisesExactly_dr .cam256, raisesExactly_dk .des3, raisesExactly_dk .aes128, raisesExactly_dk .aes256,
      raisesExactly_dk .cam128, raisesExactly_dk .cam256⟩
  case others =>
    exact ⟨raisesExactly_r2k .des3, raisesExactly_r2k .aes128, raisesExactly_r2k .aes256, raisesExactly_r2k .cam128,
      raisesExactly_r2k .cam256, raisesExactly_pbkdf2, raisesExactly_conf, raisesExactly_maccmp⟩

/-! ### Rejected words (R66, R233) -/

theorem startCommand_of_rejected {w : Word} {e : ErrorKind} (h : decode w = .error e) (s : State) :
    startCommand w s = .next (raiseError e (rejectionErasesKey e w) s) := by
  simp only [startCommand, h]

theorem rejectionErasesKey_illegalCommand (w : Word) : rejectionErasesKey .illegalCommand w = false := rfl

/-- Only the operations that take a registered algorithm can miss it, and these are the key-using ones. -/
theorem keyUsing_of_opRejection {op : Op} (h : opRejection op = .unsupportedAlgorithm) : op.keyUsing = true := by
  cases op with
  | hmac | cmac | dr | dk | r2k | pbkdf2 => rfl
  | nop | zeroize | out2key | out2aux | out2msg | trunc | nfold | conf | maccmp => cases h

theorem rejectionErasesKey_unsupportedAlgorithm {w : Word} (h : decode w = .error .unsupportedAlgorithm) :
    rejectionErasesKey .unsupportedAlgorithm w = !keepField w := by
  by_cases hreserved : reservedField w = 0#15
  · cases hop : Op.ofCode (opField w) with
    | none => cases (decode_of_unassigned hreserved hop).symm.trans h
    | some op =>
      rw [decode_of_assigned hreserved hop] at h
      obtain ⟨-, hreject⟩ := decodeOp_eq_error_iff.1 h
      simp [rejectionErasesKey, hop, keyUsing_of_opRejection hreject]
  · cases (decode_of_reserved hreserved).symm.trans h

/-- Settles O18: a rejected word raises its error, and `KEEP` decides on `K` only for an operation that is key-using. -/
theorem rejectedWordTakesTheEpilogue : Obligations.RejectedWordTakesTheEpilogue := by
  intro s w e rest hbusy hbus
  have hstep : step s = startCommand w { s with bus := rest, source := e } := step_writeReg hbusy .cmd hbus
  refine ⟨fun h => ?illegal, fun h => ?unsupported⟩
  case illegal =>
    rw [hstep, startCommand_of_rejected h, rejectionErasesKey_illegalCommand]
    rfl
  case unsupported =>
    rw [hstep, startCommand_of_rejected h, rejectionErasesKey_unsupportedAlgorithm h, raiseError, Bool.not_not, keyAfter,
      keepField]
    rfl

/-! ### The end of every command (R17, R60, R240) -/

/-- Settles O20: a command word is always answered, and leaves the actions behind it and a finished `STATUS`. -/
theorem everyCommandWordFinishes : Obligations.EveryCommandWordFinishes := by
  intro s w e rest hbusy hbus
  obtain ⟨t, ht⟩ := startCommand_answers w { s with bus := rest, source := e }
  obtain ⟨-, htail⟩ := startCommand_host_fields ht
  refine ⟨t, (step_writeReg hbusy .cmd hbus).trans ht, htail, ?_⟩
  obtain ⟨m, hdone⟩ | ⟨err, herror⟩ := startCommand_status ht
  · rw [hdone]
    cases m <;> decide
  · rw [herror]
    cases err <;> decide

/-- A command takes the error epilogue, or ends without error and logs nothing. -/
theorem CommandEffect.error_or_done {i : Instr} {s t : State} (h : CommandEffect s i t) :
    (∃ e eraseKey, t = raiseError e eraseKey s) ∨ (t.err = false ∧ t.errlog = s.errlog) := by
  have err_eq {m : Bool} (hm : t.status = statusDone m) : t.err = false := by
    obtain ⟨-, -, -, herr, -⟩ := fields_of_statusDone hm
    exact herr
  cases h with
  | error i e eraseKey => exact .inl ⟨e, eraseKey, rfl⟩
  | maccmp => exact .inr ⟨err_eq (m := true) rfl, rfl⟩
  | publish | publishKeyed | zeroize | out2key | out2aux | out2msg | conf =>
    exact .inr ⟨err_eq (m := false) rfl, rfl⟩

/-- Settles O22: the error epilogue is the only effect that sets `ERR` or logs anything. -/
theorem errorsPublishNothing : Obligations.ErrorsPublishNothing := by
  intro i s t h
  obtain ⟨e, eraseKey, rfl⟩ | ⟨herr, hlog⟩ := (exec_effect h).error_or_done
  · obtain ⟨-, -, -, herr, hecode, -⟩ := fields_of_statusError (raiseError_status e eraseKey s)
    refine ⟨fun _ => ⟨rfl, ?_, rfl, rfl, rfl, rfl, rfl⟩, fun hnot => ?_⟩
    · rw [hecode, raiseError_errlog, logError]
    · simp [herr] at hnot
  · exact ⟨fun h => by simp [herr] at h, fun _ => hlog⟩

/-! ### The examples of the priority (R232) -/

/-- Settles O19: the first two words are rejected before any length is looked at, and `MACCMP` tests the length first. -/
theorem errorPriorityExamples : Obligations.ErrorPriorityExamples := by
  intro s e rest hbusy
  refine ⟨fun hbus _ => ?unsupported, fun hbus => ?reserved, fun hbus hlong => ?maccmp⟩
  case unsupported =>
    obtain ⟨-, hstep⟩ := rejectedWordTakesTheEpilogue s _ e rest hbusy hbus
    exact ⟨_, hstep (by decide), rfl⟩
  case reserved =>
    obtain ⟨hstep, -⟩ := rejectedWordTakesTheEpilogue s _ e rest hbusy hbus
    exact ⟨_, hstep (by decide), rfl⟩
  case maccmp =>
    have hstep := stepRunsTheDecodedCommand s _ e _ rest hbusy hbus (decode_encode (.maccmp false))
    exact ⟨_, hstep.trans (execMaccmp_of_tooLong (s := { s with bus := rest, source := e }) false hlong), rfl⟩

end Sys2Proof.Machine
end

section
/-! PROOFS. The busy protocol (70_reset_and_hazards.md R266; as the model takes it, log 7). First the step of a legal read and of
a legal write while `BUSY` = 1; then the three clauses of the protocol. -/

namespace Sys2Proof.Machine

section Busy
variable {s : State} {rest : List HostAction} {off width : Nat} {v : Word} {e : Nat}

theorem step_readLegal_of_busy (hbusy : s.busy = true) (hlt : off < windowSize) (hlegal : legalAccess off width = true)
    (hbus : s.bus = .read (s.cfg.base + off) width :: rest) :
    step s = .next (readBusy off width { s with bus := rest }) := by
  calc step s = performRead off width { s with bus := rest } :=
        (step_of_bus hbus).trans (perform_readLegal hlt hlegal { s with bus := rest })
    _ = .next (readBusy off width { s with bus := rest }) := if_pos hbusy

theorem step_writeLegal_of_busy (hbusy : s.busy = true) (hlt : off < windowSize) (hlegal : legalAccess off width = true)
    (hbus : s.bus = .write (s.cfg.base + off) width v e :: rest) : step s = .next { s with bus := rest } := by
  calc step s = performWrite off v e { s with bus := rest } :=
        (step_of_bus hbus).trans (perform_writeLegal hlt hlegal { s with bus := rest })
    _ = .next { s with bus := rest } := if_pos hbusy

end Busy

theorem statusBusy_eq : statusBusy = 0x00000001#32 := rfl

/-- Settles O41: the busy engine ignores the write, and answers the read as `readBusy` does. -/
theorem busyEngineIgnoresWrites : Obligations.BusyEngineIgnoresWrites := by
  intro s off width v e rest hbusy hlt hlegal
  refine ⟨step_writeLegal_of_busy hbusy hlt hlegal, fun hoff hbus => ?status, fun hoff hbus => ?other⟩
  case status => rw [step_readLegal_of_busy hbusy hlt hlegal hbus, readBusy, if_pos hoff, statusBusy_eq, reply]
  case other =>
    refine ⟨Config.busyRead s.fresh &&& widthMask width, ?_⟩
    rw [step_readLegal_of_busy hbusy hlt hlegal hbus, readBusy, if_neg hoff, reply]

end Sys2Proof.Machine
end
